-- ==== Sys2Proof/Word.lean ====
section
/-! DEFINITION. The widths of the bridge core's data (R9, R10, R13): bytes, 7-bit bus addresses, group selectors, channel
handles. All values are unsigned (R9); nothing here is sign-extended. -/
namespace Sys2Proof

/-- A byte: bits 7 (most significant) to 0 (R9). A frame, a payload and a buffer are lists of these, byte 0 first (R10). -/
abbrev Byte := BitVec 8

/-- A 7-bit I2C target address (R16, R44). -/
abbrev Addr7 := BitVec 7

/-- The 3-bit `op_type` of a frame header (R62). -/
abbrev OpType := BitVec 3

/-- The 5-bit GPIO pin-group selector (R69). -/
abbrev GroupId := BitVec 5

/-- The name of one handle of `CHANNEL_ID` (R7, R28), the transport's type, which the spec leaves OPEN. The block stores a
handle, passes it to `send` and never inspects it, so its number only tells it from the others (DESIGN CHOICE, log 2).
Which numbers are handles, that is which type CHANNEL_ID is, is the parameter `Params.channelIds`. -/
abbrev ChannelId := Nat

end Sys2Proof
end

