-- ==== Sys2Proof/Config.lean ====
section
/-! DEFINITION. The implementation parameters of R7, the literals the source fixes (R8), and the one value the spec
leaves free (I6). -/
namespace Sys2Proof

/-- `WATCHDOG` (R7, R94, R135): absent in the original, or fitted. -/
inductive Watchdog where
  | none
  | enabled
  deriving DecidableEq, Repr

/-- The parameters of R7 that an implementation chooses. A `Params` is plain data and stands in `State`, where nothing
writes it, so that every statement about the machine is about every choice of parameters. -/
structure Params where
  /-- `MAX_FRAME`: the largest encodable frame in bytes, header included (D3). -/
  maxFrame : Nat
  /-- `SUPPORTED_GROUPS`: the GPIO pin groups the core answers (I2). -/
  supportedGroups : List GroupId
  /-- `UNSOL_SET_REQ_BIT`: set bit 7 of byte 0 of an unsolicited GPIO request (D22). -/
  unsolSetReqBit : Bool
  /-- `PIN_MASK`: the pins sampled (D24). -/
  pinMask : Byte
  /-- `GPIO_SNAPSHOT_INIT`: the value of `gpio_last` at reset (D25). -/
  gpioSnapshotInit : Byte
  /-- `WATCHDOG` (D16). -/
  watchdog : Watchdog
  /-- `CHANNEL_ID` (D40, I15): how many handles the transport's type has, its handles then being the numbers below it;
  `none` sets no bound. A type the block never inspects matters to it in nothing else (log 2). -/
  channelIds : Option Nat
  deriving DecidableEq, Repr

/-- The values R7 gives. It gives CHANNEL_ID none (OPEN): no bound is put on the handles (DESIGN CHOICE, log 2). -/
def Params.default : Params where
  maxFrame := 31
  supportedGroups := [2]
  unsolSetReqBit := false
  pinMask := 0x0F
  gpioSnapshotInit := 0x00
  watchdog := .none
  channelIds := none

/-- Is `ch` a handle of the type `CHANNEL_ID`? -/
def Params.isChannel (p : Params) (ch : ChannelId) : Bool :=
  match p.channelIds with
  | none => true
  | some n => decide (ch < n)

/-- The handle that a number stands for, within the type `CHANNEL_ID`. -/
def Params.channel (p : Params) (k : Nat) : ChannelId :=
  match p.channelIds with
  | none => k
  | some n => k % n

/-- The legal parameter values: `MAX_FRAME` in 3..31 (R7), a snapshot with no bit outside `PIN_MASK` (R29), and a type
`CHANNEL_ID` that has a handle. -/
def Params.legal (p : Params) : Bool :=
  decide (3 ≤ p.maxFrame) && decide (p.maxFrame ≤ 31) && (p.gpioSnapshotInit &&& ~~~ p.pinMask == 0) &&
    p.isChannel 0

/-- `MAX_XFER` (R7, D36): the largest engine transaction, and the size of `eng_buf` in bytes (R20). -/
def maxXfer : Nat := 255

/-- `SEQ_MOD` (R7): the modulus of `ownseq`. -/
def seqMod : Nat := 255

/-- `SENTINEL` (R7): the `corr` byte of an unsolicited request. -/
def sentinel : Byte := 0xFF

/-- `STATUS_ERR` (R7, R67): the error bit of a status byte. -/
def statusErr : Byte := 0x40

/-- `UNSOL_GROUP` (R7): the group byte of an unsolicited GPIO request. -/
def unsolGroup : Byte := 0x02

/-- What `link_channel` holds once the link is closed: 'any value; never read while `link_connected = 0`' (I6, R108).
A FREE VALUE (log 3): no body, so nothing can be proved of it. The argument counts the draws. -/
opaque Config.freeChannel : Nat → ChannelId

end Sys2Proof
end

