-- ==== Sys2Proof/Syntax.lean ====
section
/-! DEFINITION. The instructions of the bridge core: the 13 frame commands of the decode table (R74) and the 15 interface
operations (R75), one constructor of `Instr` for each row of the opcode table; and the two raw forms they are decoded from. -/
namespace Sys2Proof

/-- A decoded frame (R102). Its `length` is the length of `payload`, so it is not stored twice. -/
structure Frame where
  opType : OpType
  seq : Byte
  corr : Byte
  payload : List Byte
  deriving DecidableEq, Repr

/-- `Frame.length` (R102): the payload length, without the 3-byte header. -/
def Frame.length (f : Frame) : Nat := f.payload.length

/-- The frame commands, rows 1 to 13 of R74, with their operands pulled out as R63 to R69 give them. Every command keeps
the `seq` and `corr` bytes and every bit the core ignores, so that no bit of a frame is dropped by decoding. -/
inductive FrameCmd where
  | i2cEmpty (seq corr : Byte)
  | gpioEmpty (seq corr : Byte)
  | rsvdOp2 (seq corr : Byte) (payload : List Byte)
  | rsvdOp3 (seq corr : Byte) (payload : List Byte)
  | rsvdOp4 (seq corr : Byte) (payload : List Byte)
  | rsvdOp5 (seq corr : Byte) (payload : List Byte)
  | rsvdOp6 (seq corr : Byte) (payload : List Byte)
  | rsvdOp7 (seq corr : Byte) (payload : List Byte)
  | i2cReadShort (seq corr : Byte) (addr : Addr7)
  | i2cRead (seq corr : Byte) (addr : Addr7) (unused : BitVec 3) (rlen : BitVec 5) (sel : List Byte)
  | i2cWrite (seq corr : Byte) (addr : Addr7) (data : List Byte)
  | gpioRead (seq corr : Byte) (isReq : BitVec 1) (unused : BitVec 2) (group : GroupId) (rest : List Byte)
  | gpioBadgroup (seq corr : Byte) (isReq : BitVec 1) (unused : BitVec 2) (group : GroupId) (rest : List Byte)
  deriving DecidableEq, Repr

/-- The instructions: one constructor for each row of spec/opcode_table.json. -/
inductive Instr where
  /-- I2C_EMPTY: an I2C frame with no payload (R111). -/
  | i2cEmpty (seq corr : Byte)
  /-- GPIO_EMPTY: a GPIO frame with no payload (R111). -/
  | gpioEmpty (seq corr : Byte)
  /-- RSVD_OP2: reserved `op_type` 2 (R110). -/
  | rsvdOp2 (seq corr : Byte) (payload : List Byte)
  /-- RSVD_OP3: reserved `op_type` 3 (R110). -/
  | rsvdOp3 (seq corr : Byte) (payload : List Byte)
  /-- RSVD_OP4: reserved `op_type` 4 (R110). -/
  | rsvdOp4 (seq corr : Byte) (payload : List Byte)
  /-- RSVD_OP5: reserved `op_type` 5 (R110). -/
  | rsvdOp5 (seq corr : Byte) (payload : List Byte)
  /-- RSVD_OP6: reserved `op_type` 6 (R110). -/
  | rsvdOp6 (seq corr : Byte) (payload : List Byte)
  /-- RSVD_OP7: reserved `op_type` 7 (R110). -/
  | rsvdOp7 (seq corr : Byte) (payload : List Byte)
  /-- I2C_READ_SHORT: an I2C read without its read-length byte (R111). -/
  | i2cReadShort (seq corr : Byte) (addr : Addr7)
  /-- I2C_READ: `p[1] = unused ++ rlen`, `sel = p[2..]` (R66, R113). -/
  | i2cRead (seq corr : Byte) (addr : Addr7) (unused : BitVec 3) (rlen : BitVec 5) (sel : List Byte)
  /-- I2C_WRITE: `data = p[1..]` (R65, R112). -/
  | i2cWrite (seq corr : Byte) (addr : Addr7) (data : List Byte)
  /-- GPIO_READ: `p[0] = isReq ++ unused ++ group`, a supported group (R69, R114). -/
  | gpioRead (seq corr : Byte) (isReq : BitVec 1) (unused : BitVec 2) (group : GroupId) (rest : List Byte)
  /-- GPIO_BADGROUP: any other group (R69, R115). -/
  | gpioBadgroup (seq corr : Byte) (isReq : BitVec 1) (unused : BitVec 2) (group : GroupId) (rest : List Byte)
  /-- ENG_WRITE (R82). -/
  | engWrite (addr : Addr7) (data : List Byte)
  /-- ENG_READ (R83). -/
  | engRead (addr : Addr7) (n : Byte)
  /-- EV_TXE (R85, reported by R96). -/
  | evTxe
  /-- EV_RXF (R89, reported by R98). -/
  | evRxf (b : Byte)
  /-- EV_NACK (R92, reported by R97). -/
  | evNack
  /-- EV_TIMEOUT (R94). -/
  | evTimeout
  /-- PE_STOPDONE (R99). -/
  | peStopdone
  /-- LINK_OPEN (R107). -/
  | linkOpen (ch : ChannelId)
  /-- LINK_CLOSE (R108). -/
  | linkClose
  /-- FRAME_DELIVER (R109). -/
  | frameDeliver (ch : ChannelId) (bytes : List Byte)
  /-- GPIO_POLL (R121). -/
  | gpioPoll
  /-- CODEC_ENCODE (R104). -/
  | codecEncode (op : OpType) (seq corr : Byte) (payload : List Byte)
  /-- CODEC_DECODE (R105). -/
  | codecDecode (bytes : List Byte)
  /-- GPIO_CHANGE (R116). -/
  | gpioChange (newState : Byte)
  /-- DISP_SEND (R117). -/
  | dispSend (op : OpType) (corr : Byte) (payload : List Byte)
  deriving DecidableEq, Repr

/-- A frame command as the instruction it is. -/
def FrameCmd.toInstr : FrameCmd → Instr
  | .i2cEmpty q c => .i2cEmpty q c
  | .gpioEmpty q c => .gpioEmpty q c
  | .rsvdOp2 q c p => .rsvdOp2 q c p
  | .rsvdOp3 q c p => .rsvdOp3 q c p
  | .rsvdOp4 q c p => .rsvdOp4 q c p
  | .rsvdOp5 q c p => .rsvdOp5 q c p
  | .rsvdOp6 q c p => .rsvdOp6 q c p
  | .rsvdOp7 q c p => .rsvdOp7 q c p
  | .i2cReadShort q c a => .i2cReadShort q c a
  | .i2cRead q c a u n l => .i2cRead q c a u n l
  | .i2cWrite q c a d => .i2cWrite q c a d
  | .gpioRead q c r u g t => .gpioRead q c r u g t
  | .gpioBadgroup q c r u g t => .gpioBadgroup q c r u g t

/-- An interface operation as it stands on the block's interface (R75): the 4-bit code `opc` 'with its arguments beside
it'. The spec gives the arguments no bit positions, so each has a line of its own; an operation reads the lines of
its own arguments and ignores the rest (DESIGN CHOICE, log 5). -/
structure IfcWord where
  opc : BitVec 4
  chan : ChannelId := 0
  addr : Addr7 := 0
  op : OpType := 0
  seq : Byte := 0
  corr : Byte := 0
  arg : Byte := 0
  bytes : List Byte := []
  deriving DecidableEq, Repr

/-- The raw form of an instruction: an interface word (format IFC4, R75), or the bytes of a frame as they travel, byte 0
first (formats FRAME8 and FRAME16, R74). -/
inductive Encoded where
  | ifc (w : IfcWord)
  | frame (bytes : List Byte)
  deriving DecidableEq, Repr

/-- The steps of PERIPH, the peripheral with the addressed target (R95): it reports an event, or its STOP completes. -/
inductive PeriphStep where
  /-- PE_TXE (R96). -/
  | txe
  /-- PE_NACK (R97). -/
  | nack
  /-- PE_RXF(b) (R98). -/
  | rxf (b : Byte)
  /-- PE_STOPDONE (R99). -/
  | stopdone
  deriving DecidableEq, Repr

/-- The instruction a step of PERIPH is: the report with the handler in one atomic step (R95). -/
def PeriphStep.toInstr : PeriphStep → Instr
  | .txe => .evTxe
  | .nack => .evNack
  | .rxf b => .evRxf b
  | .stopdone => .peStopdone

/-- One choice of which agent moves next (R6). The order of the agents' steps is free (R52, R95, R134), so the order taken
is an input of the machine: `State.inputs` is the list of the choices still to come. -/
inductive Slot where
  /-- SEQ takes its next step of its own, if it has one enabled (R32, R81, R131). -/
  | seq
  /-- PINS drives the input register to `v` (R30, script line `PINS v` of R76). -/
  | pins (v : Byte)
  /-- PERIPH takes a step of its own (R95 to R99), which is one only where that step is enabled. -/
  | periph (e : PeriphStep)
  /-- The watchdog, HOST, TICK or SEQ's caller presents an instruction (R75); also the way to inject an event that no
  conforming peripheral reports (R93; vectors V-E9 to V-E12). -/
  | port (e : Encoded)
  deriving DecidableEq, Repr

end Sys2Proof
end

