-- ==== Sys2Proof/WellFormed.lean ====
section
/-! DEFINITION. Which instructions are the ones an encoding stands for: the bounds the 5-bit length field, the
group table and the parameters put on their operands. -/
namespace Sys2Proof

/-- The most payload bytes a decodable frame carries: `L - 3` with `L` at most 31 (R59, R105). -/
def maxDecodedPayload : Nat := 28

/-- A frame command fits a frame (R59) and stands on its own row of the decode table (R74). -/
def FrameCmd.wellFormed (groups : List GroupId) : FrameCmd → Bool
  | .i2cEmpty _ _ => true
  | .gpioEmpty _ _ => true
  | .rsvdOp2 _ _ p => decide (p.length ≤ maxDecodedPayload)
  | .rsvdOp3 _ _ p => decide (p.length ≤ maxDecodedPayload)
  | .rsvdOp4 _ _ p => decide (p.length ≤ maxDecodedPayload)
  | .rsvdOp5 _ _ p => decide (p.length ≤ maxDecodedPayload)
  | .rsvdOp6 _ _ p => decide (p.length ≤ maxDecodedPayload)
  | .rsvdOp7 _ _ p => decide (p.length ≤ maxDecodedPayload)
  | .i2cReadShort _ _ _ => true
  | .i2cRead _ _ _ _ _ sel => decide (sel.length + 2 ≤ maxDecodedPayload)
  | .i2cWrite _ _ _ data => decide (data.length + 1 ≤ maxDecodedPayload)
  | .gpioRead _ _ _ _ g rest => decide (g ∈ groups) && decide (rest.length + 1 ≤ maxDecodedPayload)
  | .gpioBadgroup _ _ _ _ g rest => decide (g ∉ groups) && decide (rest.length + 1 ≤ maxDecodedPayload)

/-- Well-formed instructions, for a core with the parameters `p`. An interface operation takes any operand of its type:
a channel is one of CHANNEL_ID (R7), and the data of ENG_WRITE has at most `MAX_XFER` bytes (R82). -/
def Instr.wellFormed (p : Params) : Instr → Bool
  | .i2cEmpty q c => (FrameCmd.i2cEmpty q c).wellFormed p.supportedGroups
  | .gpioEmpty q c => (FrameCmd.gpioEmpty q c).wellFormed p.supportedGroups
  | .rsvdOp2 q c d => (FrameCmd.rsvdOp2 q c d).wellFormed p.supportedGroups
  | .rsvdOp3 q c d => (FrameCmd.rsvdOp3 q c d).wellFormed p.supportedGroups
  | .rsvdOp4 q c d => (FrameCmd.rsvdOp4 q c d).wellFormed p.supportedGroups
  | .rsvdOp5 q c d => (FrameCmd.rsvdOp5 q c d).wellFormed p.supportedGroups
  | .rsvdOp6 q c d => (FrameCmd.rsvdOp6 q c d).wellFormed p.supportedGroups
  | .rsvdOp7 q c d => (FrameCmd.rsvdOp7 q c d).wellFormed p.supportedGroups
  | .i2cReadShort q c a => (FrameCmd.i2cReadShort q c a).wellFormed p.supportedGroups
  | .i2cRead q c a u n l => (FrameCmd.i2cRead q c a u n l).wellFormed p.supportedGroups
  | .i2cWrite q c a d => (FrameCmd.i2cWrite q c a d).wellFormed p.supportedGroups
  | .gpioRead q c r u g t => (FrameCmd.gpioRead q c r u g t).wellFormed p.supportedGroups
  | .gpioBadgroup q c r u g t => (FrameCmd.gpioBadgroup q c r u g t).wellFormed p.supportedGroups
  | .engWrite _ data => decide (data.length ≤ maxXfer)
  | .engRead _ _ => true
  | .evTxe => true
  | .evRxf _ => true
  | .evNack => true
  | .evTimeout => true
  | .peStopdone => true
  | .linkOpen ch => p.isChannel ch
  | .linkClose => true
  | .frameDeliver ch _ => p.isChannel ch
  | .gpioPoll => true
  | .codecEncode _ _ _ _ => true
  | .codecDecode _ => true
  | .gpioChange _ => true
  | .dispSend _ _ _ => true

end Sys2Proof
end

