-- ==== Sys2Proof/Decode.lean ====
section
/-! DEFINITION. The encodings: the fields of a frame (R58 to R66), the FrameCodec (R102 to R105), the decode table (R74), the
interface codes (R75), the decoder of both, the encoder, and the notation of R76. -/
namespace Sys2Proof

/-! ### Fields (R63) -/

/-- `op_type = byte0 >> 5` (R62, R63). -/
def opTypeField (b0 : Byte) : OpType := b0.extractLsb' 5 3

/-- The length field `L = byte0 & 0x1F`: the total frame length, header included (R59, R63). -/
def lengthField (b0 : Byte) : Nat := (b0 &&& 0x1F).toNat

/-- I2C `direction = p[0] >> 7`, 1 for a read (R63, R64). -/
def directionField (p0 : Byte) : BitVec 1 := p0.extractLsb' 7 1

/-- I2C `address = p[0] & 0x7F` (R63, R64). -/
def addressField (p0 : Byte) : Addr7 := p0.extractLsb' 0 7

/-- I2C `read_length = p[1] & 0x1F` (R63, R66). -/
def readLengthField (p1 : Byte) : BitVec 5 := p1.extractLsb' 0 5

/-- The unused bits 7:5 of a read request's `p[1]` (R66). -/
def readUnusedField (p1 : Byte) : BitVec 3 := p1.extractLsb' 5 3

/-- GPIO `is_request = p[0] >> 7` (R63, R69). -/
def isRequestField (p0 : Byte) : BitVec 1 := p0.extractLsb' 7 1

/-- The unused bits 6:5 of a GPIO `p[0]` (R69). -/
def gpioUnusedField (p0 : Byte) : BitVec 2 := p0.extractLsb' 5 2

/-- GPIO `group = p[0] & 0x1F` (R63, R69). -/
def groupField (p0 : Byte) : GroupId := p0.extractLsb' 0 5

/-- The header byte `(op_type << 5) | L` of a frame whose payload has `n` bytes, `L = n + 3` (R58, R59). -/
def headerByte (op : OpType) (n : Nat) : Byte := (op.setWidth 8 <<< 5) ||| BitVec.ofNat 8 (n + 3)

/-! ### The FrameCodec -/

/-- CODEC_ENCODE (R104); `none` is EncodeOverflow: no bytes are produced. -/
def codecEncode (maxFrame : Nat) (op : OpType) (seq corr : Byte) (payload : List Byte) : Option (List Byte) :=
  if payload.length + 3 > maxFrame then none
  else some (headerByte op payload.length :: seq :: corr :: payload)

/-- CODEC_DECODE (R105); `none` is Truncated. Bytes after index `L - 1` are ignored (D5). -/
def codecDecode : List Byte → Option Frame
  | b0 :: seq :: corr :: rest =>
    if lengthField b0 < 3 then none
    else if lengthField b0 > rest.length + 3 then none
    else some { opType := opTypeField b0, seq, corr, payload := rest.take (lengthField b0 - 3) }
  | _ => none

/-- The bytes of a delivered buffer that belong to the frame: the first `L` (R72). -/
def frameBytes : List Byte → List Byte
  | [] => []
  | b0 :: rest => (b0 :: rest).take (lengthField b0)

/-! ### The decode table of the frame commands (R74) -/

/-- The names of the table's rows. -/
inductive RowName where
  | i2cEmpty
  | gpioEmpty
  | rsvdOp2
  | rsvdOp3
  | rsvdOp4
  | rsvdOp5
  | rsvdOp6
  | rsvdOp7
  | i2cReadShort
  | i2cRead
  | i2cWrite
  | gpioRead
  | gpioBadgroup
  deriving DecidableEq, Repr

/-- A row's mask and match. A FRAME8 row tests the header byte; a FRAME16 row tests `byte0 << 8 | p[0]`, whose two bytes
are kept apart here (the 16-bit words are `mask16` and `match16`). -/
structure RowPattern where
  name : RowName
  hdrMask : Byte
  hdrMatch : Byte
  /-- Mask and match of `p[0]`; `none` for a FRAME8 row. -/
  p0Test : Option (Byte × Byte)
  deriving DecidableEq, Repr

/-- The table's 16-bit mask of a FRAME16 row. -/
def RowPattern.mask16 (r : RowPattern) : Option (BitVec 16) := r.p0Test.map fun t => r.hdrMask ++ t.1

/-- The table's 16-bit match of a FRAME16 row. -/
def RowPattern.match16 (r : RowPattern) : Option (BitVec 16) := r.p0Test.map fun t => r.hdrMatch ++ t.2

/-- The table's rows in order. Row 12 stands once for each supported pin group (R74). -/
def frameTable (groups : List GroupId) : List RowPattern :=
  [⟨.i2cEmpty, 0xFF, 0x03, none⟩,
   ⟨.gpioEmpty, 0xFF, 0x23, none⟩,
   ⟨.rsvdOp2, 0xE0, 0x40, none⟩,
   ⟨.rsvdOp3, 0xE0, 0x60, none⟩,
   ⟨.rsvdOp4, 0xE0, 0x80, none⟩,
   ⟨.rsvdOp5, 0xE0, 0xA0, none⟩,
   ⟨.rsvdOp6, 0xE0, 0xC0, none⟩,
   ⟨.rsvdOp7, 0xE0, 0xE0, none⟩,
   ⟨.i2cReadShort, 0xFF, 0x04, some (0x80, 0x80)⟩,
   ⟨.i2cRead, 0xE0, 0x00, some (0x80, 0x80)⟩,
   ⟨.i2cWrite, 0xE0, 0x00, some (0x80, 0x00)⟩]
  ++ groups.map (fun g => ⟨.gpioRead, 0xE0, 0x20, some (0x1F, g.setWidth 8)⟩)
  ++ [⟨.gpioBadgroup, 0xE0, 0x20, some (0x00, 0x00)⟩]

/-- The header byte that a decoded frame came with: its `op_type` and `L`, which is its payload length and 3 (R59, R102). -/
def Frame.header (f : Frame) : Byte := headerByte f.opType f.length

/-- Does a frame with header `b0` and payload byte 0 `p0` match the row? A FRAME16 row is tested only when there is a `p[0]`,
that is when `L` is at least 4 (R74); `none` stands for an empty payload. -/
def RowPattern.fits (r : RowPattern) (b0 : Byte) (p0 : Option Byte) : Bool :=
  (b0 &&& r.hdrMask == r.hdrMatch) &&
    match r.p0Test, p0 with
    | none, _ => true
    | some t, some b => b &&& t.1 == t.2
    | some _, none => false

/-- The first row that matches (R74). -/
def selectRow (groups : List GroupId) (b0 : Byte) (p0 : Option Byte) : Option RowName :=
  ((frameTable groups).find? fun r => r.fits b0 p0).map RowPattern.name

/-- Why a raw instruction has no decoding. -/
inductive DecodeError where
  /-- The interface code 0x0, which is reserved (R75). -/
  | reservedOpc
  /-- A channel argument that is no handle of CHANNEL_ID (R7; log 2). -/
  | noChannel
  /-- Bytes that CODEC_DECODE rejects: fewer than 3, `L` below 3, or `L` above the bytes there (R59, R105). -/
  | truncated
  /-- No row of the decode table, or a row that lacks a byte it reads; no frame that CODEC_DECODE accepts comes here (R74). -/
  | noRow
  deriving DecidableEq, Repr

/-- The frame command that a decoded frame is: the row R74 selects, with its operands (R63 to R69). -/
def decodeCommand (groups : List GroupId) (f : Frame) : Except DecodeError FrameCmd :=
  match selectRow groups f.header f.payload.head?, f.payload with
  | some .i2cEmpty, _ => .ok (.i2cEmpty f.seq f.corr)
  | some .gpioEmpty, _ => .ok (.gpioEmpty f.seq f.corr)
  | some .rsvdOp2, p => .ok (.rsvdOp2 f.seq f.corr p)
  | some .rsvdOp3, p => .ok (.rsvdOp3 f.seq f.corr p)
  | some .rsvdOp4, p => .ok (.rsvdOp4 f.seq f.corr p)
  | some .rsvdOp5, p => .ok (.rsvdOp5 f.seq f.corr p)
  | some .rsvdOp6, p => .ok (.rsvdOp6 f.seq f.corr p)
  | some .rsvdOp7, p => .ok (.rsvdOp7 f.seq f.corr p)
  | some .i2cReadShort, p0 :: _ => .ok (.i2cReadShort f.seq f.corr (addressField p0))
  | some .i2cRead, p0 :: p1 :: sel =>
    .ok (.i2cRead f.seq f.corr (addressField p0) (readUnusedField p1) (readLengthField p1) sel)
  | some .i2cWrite, p0 :: data => .ok (.i2cWrite f.seq f.corr (addressField p0) data)
  | some .gpioRead, p0 :: rest =>
    .ok (.gpioRead f.seq f.corr (isRequestField p0) (gpioUnusedField p0) (groupField p0) rest)
  | some .gpioBadgroup, p0 :: rest =>
    .ok (.gpioBadgroup f.seq f.corr (isRequestField p0) (gpioUnusedField p0) (groupField p0) rest)
  | some .i2cReadShort, [] => .error .noRow
  | some .i2cRead, [] => .error .noRow
  | some .i2cRead, [_] => .error .noRow
  | some .i2cWrite, [] => .error .noRow
  | some .gpioRead, [] => .error .noRow
  | some .gpioBadgroup, [] => .error .noRow
  | none, _ => .error .noRow

/-- The frame command that the bytes of a frame are: CODEC_DECODE first (R59, R105, R109), then the decode table. -/
def decodeFrame (groups : List GroupId) (bytes : List Byte) : Except DecodeError FrameCmd :=
  match codecDecode bytes with
  | none => .error .truncated
  | some f => decodeCommand groups f

/-! ### The interface operations (R75) -/

/-- An operation with a channel argument: the argument is of the type CHANNEL_ID (R7, R107, R109), or it is no operation. -/
def withChannel (p : Params) (ch : ChannelId) (i : Instr) : Except DecodeError Instr :=
  if p.isChannel ch then .ok i else .error .noChannel

/-- The operation an interface word stands for: its 4-bit code, with the argument lines that operation has. -/
def decodeIfc (p : Params) (w : IfcWord) : Except DecodeError Instr :=
  match w.opc.toNat with
  | 0x1 => .ok (.engWrite w.addr w.bytes)
  | 0x2 => .ok (.engRead w.addr w.arg)
  | 0x3 => .ok .evTxe
  | 0x4 => .ok (.evRxf w.arg)
  | 0x5 => .ok .evNack
  | 0x6 => .ok .evTimeout
  | 0x7 => .ok .peStopdone
  | 0x8 => withChannel p w.chan (.linkOpen w.chan)
  | 0x9 => .ok .linkClose
  | 0xA => withChannel p w.chan (.frameDeliver w.chan w.bytes)
  | 0xB => .ok .gpioPoll
  | 0xC => .ok (.codecEncode w.op w.seq w.corr w.bytes)
  | 0xD => .ok (.codecDecode w.bytes)
  | 0xE => .ok (.gpioChange w.arg)
  | 0xF => .ok (.dispSend w.op w.corr w.bytes)
  | _ => .error .reservedOpc

/-- The decoder of a core with the parameters `p`: total on every raw instruction, rejecting by name. -/
def decode (p : Params) : Encoded → Except DecodeError Instr
  | .ifc w => decodeIfc p w
  | .frame bytes =>
    match decodeFrame p.supportedGroups bytes with
    | .ok c => .ok c.toInstr
    | .error e => .error e

/-! ### The encoder -/

/-- The bytes of a frame command, laid out as R58, R64, R65, R66 and R69 give them. -/
def encodeCommand : FrameCmd → List Byte
  | .i2cEmpty seq corr => [headerByte 0 0, seq, corr]
  | .gpioEmpty seq corr => [headerByte 1 0, seq, corr]
  | .rsvdOp2 seq corr p => headerByte 2 p.length :: seq :: corr :: p
  | .rsvdOp3 seq corr p => headerByte 3 p.length :: seq :: corr :: p
  | .rsvdOp4 seq corr p => headerByte 4 p.length :: seq :: corr :: p
  | .rsvdOp5 seq corr p => headerByte 5 p.length :: seq :: corr :: p
  | .rsvdOp6 seq corr p => headerByte 6 p.length :: seq :: corr :: p
  | .rsvdOp7 seq corr p => headerByte 7 p.length :: seq :: corr :: p
  | .i2cReadShort seq corr a => [headerByte 0 1, seq, corr, (1 : BitVec 1) ++ a]
  | .i2cRead seq corr a unused rlen sel =>
    headerByte 0 (sel.length + 2) :: seq :: corr :: ((1 : BitVec 1) ++ a) :: (unused ++ rlen) :: sel
  | .i2cWrite seq corr a data => headerByte 0 (data.length + 1) :: seq :: corr :: ((0 : BitVec 1) ++ a) :: data
  | .gpioRead seq corr isReq unused g rest =>
    headerByte 1 (rest.length + 1) :: seq :: corr :: ((isReq ++ unused ++ g : BitVec 8)) :: rest
  | .gpioBadgroup seq corr isReq unused g rest =>
    headerByte 1 (rest.length + 1) :: seq :: corr :: ((isReq ++ unused ++ g : BitVec 8)) :: rest

/-- The encoder: a frame command's bytes (R58), or an interface operation's code with its argument lines (R75). -/
def encode : Instr → Encoded
  | .i2cEmpty q c => .frame (encodeCommand (.i2cEmpty q c))
  | .gpioEmpty q c => .frame (encodeCommand (.gpioEmpty q c))
  | .rsvdOp2 q c p => .frame (encodeCommand (.rsvdOp2 q c p))
  | .rsvdOp3 q c p => .frame (encodeCommand (.rsvdOp3 q c p))
  | .rsvdOp4 q c p => .frame (encodeCommand (.rsvdOp4 q c p))
  | .rsvdOp5 q c p => .frame (encodeCommand (.rsvdOp5 q c p))
  | .rsvdOp6 q c p => .frame (encodeCommand (.rsvdOp6 q c p))
  | .rsvdOp7 q c p => .frame (encodeCommand (.rsvdOp7 q c p))
  | .i2cReadShort q c a => .frame (encodeCommand (.i2cReadShort q c a))
  | .i2cRead q c a u n l => .frame (encodeCommand (.i2cRead q c a u n l))
  | .i2cWrite q c a d => .frame (encodeCommand (.i2cWrite q c a d))
  | .gpioRead q c r u g t => .frame (encodeCommand (.gpioRead q c r u g t))
  | .gpioBadgroup q c r u g t => .frame (encodeCommand (.gpioBadgroup q c r u g t))
  | .engWrite a data => .ifc { opc := 0x1, addr := a, bytes := data }
  | .engRead a n => .ifc { opc := 0x2, addr := a, arg := n }
  | .evTxe => .ifc { opc := 0x3 }
  | .evRxf b => .ifc { opc := 0x4, arg := b }
  | .evNack => .ifc { opc := 0x5 }
  | .evTimeout => .ifc { opc := 0x6 }
  | .peStopdone => .ifc { opc := 0x7 }
  | .linkOpen ch => .ifc { opc := 0x8, chan := ch }
  | .linkClose => .ifc { opc := 0x9 }
  | .frameDeliver ch bytes => .ifc { opc := 0xA, chan := ch, bytes := bytes }
  | .gpioPoll => .ifc { opc := 0xB }
  | .codecEncode op seq corr p => .ifc { opc := 0xC, op := op, seq := seq, corr := corr, bytes := p }
  | .codecDecode bytes => .ifc { opc := 0xD, bytes := bytes }
  | .gpioChange s => .ifc { opc := 0xE, arg := s }
  | .dispSend op corr p => .ifc { opc := 0xF, op := op, corr := corr, bytes := p }

/-! ### The words of the opcode table -/

/-- Does a FRAME8 row match this header byte? -/
def isFrame8 (b0 : Byte) : Bool := (selectRow [] b0 none).isSome

/-- How many bytes a frame laid out from a table word has: as many as the longest frame (R59). -/
def tableFrameLength : Nat := 31

/-- A header byte of a table word. Most rows' masks leave `L` open, so their words carry a 0 there, which is the length of no
frame (R59); such a header is completed with the length of the bytes laid out. A header with a legal `L` stays (log 6). -/
def completeHeader (b0 : Byte) : Byte :=
  if lengthField b0 < 3 then headerByte (opTypeField b0) (tableFrameLength - 3) else b0

/-- The raw instruction whose bits are `w`, numbered as the opcode table numbers them, every bit above them 0.
A FRAME16 word is `byte0 << 8 | p[0]` (R74), two bytes that are bytes 0 and 3 of the frame. A word of one byte is a
FRAME8 header where a FRAME8 row matches it, else the code of an interface operation; so the table's first row takes the
word 0x03, which is also EV_TXE's code (log 6). -/
def encodedOfTableWord (nbits w : Nat) : Encoded :=
  if nbits ≤ 4 then .ifc { opc := BitVec.ofNat 4 w }
  else if nbits ≤ 8 then
    if isFrame8 (BitVec.ofNat 8 w) then
      .frame (completeHeader (BitVec.ofNat 8 w) :: List.replicate (tableFrameLength - 1) 0)
    else .ifc { opc := BitVec.ofNat 4 w }
  else
    .frame (completeHeader (BitVec.ofNat 8 (w / 256)) :: 0 :: 0 :: BitVec.ofNat 8 w ::
      List.replicate (tableFrameLength - 4) 0)

/-- The instruction the decoder reads from a word of the opcode table, with the default parameters. -/
def decodeTableWord (nbits w : Nat) : Option Instr :=
  (decode Params.default (encodedOfTableWord nbits w)).toOption

/-! ### The notation of R76 -/

/-- `FRAME op, seq, corr, [p0, p1, ...]`. -/
def frameNotation (op : OpType) (seq corr : Byte) (payload : List Byte) : Option (List Byte) :=
  codecEncode Params.default.maxFrame op seq corr payload

/-- `I2C.WR seq, a, [d...]`. -/
def i2cWrNotation (seq a : Byte) (data : List Byte) : Option (List Byte) :=
  frameNotation 0 seq 0xFF ((a &&& 0x7F) :: data)

/-- `I2C.RD seq, a, n, [s...]`. -/
def i2cRdNotation (seq a n : Byte) (sel : List Byte) : Option (List Byte) :=
  frameNotation 0 seq 0xFF ((0x80 ||| (a &&& 0x7F)) :: (n &&& 0x1F) :: sel)

/-- `GPIO.RD seq, g`. -/
def gpioRdNotation (seq g : Byte) : Option (List Byte) :=
  frameNotation 1 seq 0xFF [0x80 ||| (g &&& 0x1F)]

end Sys2Proof
end

