-- ==== Sys2Proof/Machine/State.lean ====
section
/-! DEFINITION. The machine's state: every element of R13, then the environment's and the model's own fields, each marked as
such; the faults of R126; and the state after reset (R140). -/
namespace Sys2Proof.Machine

/-- The faults of R126: precondition violations that a correct system never reaches. An operation that meets one ENTERS A
FAULT STATE (`State.enterFault`), and `step` at a faulted state answers `.fault`, for a faulted state is never cleared. Safe:
the machine stops where the spec gives the hardware no meaning. -/
inductive Fault where
  /-- ENGINE_BUSY: an engine call while `eng_state ≠ IDLE` (R80). Raised by ENG_WRITE, ENG_READ, I2C_WRITE, I2C_READ. Safe. -/
  | engineBusy
  /-- XFER_TOO_LONG: an engine call longer than `MAX_XFER` (R82). Raised by ENG_WRITE, I2C_WRITE, I2C_READ. Safe. -/
  | xferTooLong
  /-- UNWRITTEN_BUF: a read of a byte of `eng_buf` that no write has set (R20). Raised by EV_TXE and by SEQ's result. Safe. -/
  | unwrittenBuf
  /-- BUF_RANGE: an index outside a buffer (R45). Raised by every access to `eng_buf`. Safe. -/
  | bufRange
  deriving DecidableEq, Repr

/-- The refusals. 'The block has no refusal inside its semantics' (R12), so nothing but an arm of `exec` for an instruction
without a meaning raises one, and there is no such arm. -/
inductive Refusal where
  /-- An instruction that has no meaning yet, by its mnemonic; raised by `exec`. Safe. -/
  | notModelled (mnemonic : String)
  deriving DecidableEq, Repr

/-- `eng_state` (R14, R77). -/
inductive EngState where
  | idle
  | addr
  | xfer
  | compl
  deriving DecidableEq, Repr

/-- `eng_dir` (R15). -/
inductive Dir where
  | w
  | r
  deriving DecidableEq, Repr

/-- `eng_err` (R21). -/
inductive EngErr where
  | none
  | noack
  | timeout
  deriving DecidableEq, Repr

/-- `p_owe` (R25): what the peripheral owes the engine next. -/
inductive Owe where
  | none
  | ackW
  | ackR
  | rx
  deriving DecidableEq, Repr

/-- `seq_phase` (R32), and `callWait`, the model's own: SEQ waits for an engine call made directly (log 15). -/
inductive SeqPhase where
  | ready
  | wWait
  | selWait
  | rdWait
  | stopHold
  | callWait
  deriving DecidableEq, Repr

/-- An engine call and its arguments (R41). -/
inductive Call where
  | write (addr : Addr7) (data : List Byte)
  | read (addr : Addr7) (n : Byte)
  deriving DecidableEq, Repr

/-- `BusError` (R84, R125). -/
inductive BusError where
  | noAck
  | timeout
  deriving DecidableEq, Repr

/-- What an engine call returns (R84). -/
inductive CallResult where
  | okWrite
  | okRead (bytes : List Byte)
  | err (e : BusError)
  deriving DecidableEq, Repr

/-- `disp_ctx` (R32): the working values of SEQ's operation, and in STOP_HOLD the pending call with the phase that follows. -/
structure DispCtx where
  rseq : Byte
  addr : Addr7
  data : List Byte
  sel : List Byte
  rlen : BitVec 5
  wok : Bool
  pending : Call
  resume : SeqPhase
  deriving DecidableEq, Repr

/-- Why a frame was not sent (R38). -/
inductive TxDrop where
  | overflow
  | disconnected
  deriving DecidableEq, Repr

/-- Why an inbound frame was discarded (R38). -/
inductive RxDrop where
  | truncated
  | unknownOpType
  | malformed
  deriving DecidableEq, Repr

/-- The items of `trace` (R38). `send` also names the channel that `emit H_SEND(channel, bytes)` names (R39; log 19). -/
inductive TraceItem where
  | start (a : Byte)
  | tx (b : Byte)
  | stopReq
  | stopDone
  | evTxe
  | evRxf (b : Byte)
  | evNack
  | evTimeout
  | send (ch : ChannelId) (bytes : List Byte)
  | dropTx (r : TxDrop)
  | dropRx (r : RxDrop)
  deriving DecidableEq, Repr

/-- A value an operation handed back to its caller (`return v` and `raise E` of R11; the model's own record, log 16). -/
inductive ReturnItem where
  /-- The result of an engine call made directly (R84). -/
  | call (r : CallResult)
  /-- The bytes CODEC_ENCODE returns. -/
  | encoded (bytes : List Byte)
  /-- CODEC_ENCODE raised EncodeOverflow(n). -/
  | encodeOverflow (n : Nat)
  /-- The frame CODEC_DECODE returns. -/
  | decoded (f : Frame)
  /-- CODEC_DECODE raised Truncated. -/
  | truncated
  deriving DecidableEq, Repr

/-- A buffer (R20, R45): the bytes that have been written, as (index, byte) pairs, indices strictly rising. An index that
is not listed holds no value (R20), so no entry is ever one that an unlisted index would read as. -/
abbrev Memory := List Host.Cell

/-- The state of the machine. -/
structure State where
  /-- `eng_state` (R14). -/
  engState : EngState
  /-- `eng_dir` (R15). -/
  engDir : Dir
  /-- `eng_addr` (R16). -/
  engAddr : Addr7
  /-- `eng_len` (R17). -/
  engLen : Byte
  /-- `eng_idx` (R18). -/
  engIdx : Byte
  /-- `eng_rem` (R19). -/
  engRem : Byte
  /-- `eng_buf` (R20; log 14). -/
  engBuf : Memory
  /-- `eng_err` (R21). -/
  engErr : EngErr
  /-- `eng_done` (R22). -/
  engDone : Bool
  /-- `eng_stopreq` (R23). -/
  engStopreq : Bool
  /-- `eng_unexp` (R24), sticky. -/
  engUnexp : Bool
  /-- `p_owe` (R25). -/
  pOwe : Owe
  /-- `p_stop_pending` (R26). -/
  pStopPending : Bool
  /-- `ownseq` (R27). -/
  ownseq : Byte
  /-- `link_connected` (R28). -/
  linkConnected : Bool
  /-- `link_channel` (R28). -/
  linkChannel : ChannelId
  /-- `gpio_last` (R29). -/
  gpioLast : Byte
  /-- `seq_phase` (R32). -/
  seqPhase : SeqPhase
  /-- `disp_ctx` (R32). -/
  dispCtx : DispCtx
  /-- `fault` (R37): a set, held as a list without repeats, the first entered first. -/
  fault : List Fault
  /-- `trace` (R38). -/
  trace : List TraceItem
  /-- Environment (PINS): the value reads of `PINREG` return until PINS drives another (R30; log 17). -/
  pinReg : Byte
  /-- Environment: the agents' choices still to come, the next one first (R6, R52; log 8). -/
  inputs : List Slot
  /-- Environment (HOST, TICK, SEQ's caller): SEQ operations asked for while SEQ was not READY, in arrival order (R109; log 9). -/
  held : List Instr
  /-- Model's own: the values handed back to callers, in order (R11; log 16). -/
  returns : List ReturnItem
  /-- Model's own: how many free values have been drawn (I6; log 3). -/
  freeCount : Nat
  /-- The parameters of R7, which nothing writes (log 1). -/
  params : Params
  deriving DecidableEq, Repr

/-- `disp_ctx` at reset, which the spec leaves unspecified (R32, I8). DESIGN CHOICE (log 4): zeros. -/
def DispCtx.reset : DispCtx where
  rseq := 0
  addr := 0
  data := []
  sel := []
  rlen := 0
  wok := false
  pending := .read 0 0
  resume := .ready

/-- The state after reset of a core with the parameters `p` (R13, R140). -/
def State.resetWith (p : Params) : State where
  engState := .idle
  engDir := .w
  engAddr := 0
  engLen := 0
  engIdx := 0
  engRem := 0
  engBuf := []
  engErr := .none
  engDone := false
  engStopreq := false
  engUnexp := false
  pOwe := .none
  pStopPending := false
  ownseq := 0
  linkConnected := false
  linkChannel := 0
  gpioLast := p.gpioSnapshotInit
  seqPhase := .ready
  dispCtx := .reset
  fault := []
  trace := []
  pinReg := 0
  inputs := []
  held := []
  returns := []
  freeCount := 0
  params := p

/-- The state after reset (R140), with the parameters R7 gives. -/
def State.reset : State := State.resetWith Params.default

end Sys2Proof.Machine
end

