-- ==== Sys2Proof/Machine/Operands.lean ====
section
/-! DEFINITION. The bytes the core forms from its operands: the bus address byte (R78), the pin byte (R71), and the payloads
it sends (R68, R70). -/
namespace Sys2Proof.Machine

/-- The encoding of `eng_dir`, the R/W bit of the address byte: W is 0 and R is 1 (R15, R78). -/
def Dir.code : Dir → BitVec 1
  | .w => 0
  | .r => 1

/-- The encoding of `eng_state` (R14). -/
def EngState.code : EngState → BitVec 2
  | .idle => 0
  | .addr => 1
  | .xfer => 2
  | .compl => 3

/-- The encoding of `eng_err` (R21). -/
def EngErr.code : EngErr → BitVec 2
  | .none => 0
  | .noack => 1
  | .timeout => 2

/-- The byte transmitted after START: `(address << 1) | direction` (R78). -/
def addressByte (a : Addr7) (d : Dir) : Byte := (a.setWidth 8 <<< 1) ||| d.code.setWidth 8

/-- The sampled pins `PINREG & PIN_MASK` (R71, R121). -/
def sampledPins (s : State) : Byte := s.pinReg &&& s.params.pinMask

/-- The pin byte of a sampled state: inverted, then masked (R71). -/
def pinByte (mask v : Byte) : Byte := ~~~ v &&& mask

/-- The response to an I2C write (R68). -/
def writeResponse (a : Addr7) (status : Byte) (data : List Byte) : List Byte :=
  a.setWidth 8 :: status :: data

/-- The response to an I2C read: the address with bit 7 set, the status, the select bytes, the bytes read (R68). -/
def readResponse (a : Addr7) (status : Byte) (sel rbytes : List Byte) : List Byte :=
  (a.setWidth 8 ||| 0x80) :: status :: (sel ++ rbytes)

/-- The response to a GPIO request with a supported group (R70). -/
def pinsResponse (g : GroupId) (pins : Byte) : List Byte := [g.setWidth 8, pins]

/-- The response to a GPIO request with an unsupported group (R70). -/
def badGroupResponse (g : GroupId) : List Byte := [g.setWidth 8, statusErr]

/-- The payload of an unsolicited GPIO request (R70, R116). -/
def unsolicitedPayload (p : Params) (pins : Byte) : List Byte :=
  [unsolGroup ||| (if p.unsolSetReqBit then 0x80 else 0x00), pins]

end Sys2Proof.Machine
end

