-- ==== Sys2Proof/Machine/Flags.lean ====
section
/-! DEFINITION. The status byte of an I2C response (R67) and the numbered error kinds (R125). -/
namespace Sys2Proof.Machine

/-- Did the call fail? -/
def CallResult.isErr : CallResult → Bool
  | .okWrite => false
  | .okRead _ => false
  | .err _ => true

/-- The bytes a call returned; none for a failed read (R84, D15). -/
def CallResult.bytes : CallResult → List Byte
  | .okWrite => []
  | .okRead bs => bs
  | .err _ => []

/-- The status byte (R67): ERR in bit 6, COUNT in bits 4:0, the other bits 0. -/
def statusByte (err : Bool) (count : BitVec 5) : Byte :=
  (if err then statusErr else 0) ||| count.setWidth 8

/-- COUNT of a read response: the request's read length when the read phase succeeded, else 0 (R67, R113). -/
def readCount (r : CallResult) (rlen : BitVec 5) : BitVec 5 := if r.isErr then 0 else rlen

/-- The error kinds of R125. -/
inductive ErrorKind where
  | busNoAck
  | busTimeout
  | frameTruncated
  | unknownOpType
  | unsupportedGroup
  | malformed
  | encodeOverflow
  deriving DecidableEq, Repr

/-- The codes of R125; 0 stands for no error. -/
def ErrorKind.code : ErrorKind → Nat
  | .busNoAck => 1
  | .busTimeout => 2
  | .frameTruncated => 3
  | .unknownOpType => 4
  | .unsupportedGroup => 5
  | .malformed => 6
  | .encodeOverflow => 7

/-- The kind of a bus error (R125). -/
def BusError.kind : BusError → ErrorKind
  | .noAck => .busNoAck
  | .timeout => .busTimeout

/-- The kind recorded by a discarded inbound frame (R125). -/
def RxDrop.kind : RxDrop → ErrorKind
  | .truncated => .frameTruncated
  | .unknownOpType => .unknownOpType
  | .malformed => .malformed

/-- The bus error that `eng_err` records, if any (R84, R125). -/
def EngErr.busError : EngErr → Option BusError
  | .none => Option.none
  | .noack => some .noAck
  | .timeout => some .timeout

end Sys2Proof.Machine
end

