-- ==== Sys2Proof/Machine/Ops.lean ====
section
/-! DEFINITION. The named operations of the machine: buffer accesses (R45), the commands to the peripheral and the host
(R79, R117), entering a fault (R126), holding an operation that is not enabled (R32, R109), the engine call (R82, R83) and its
result (R84), and sending a frame (R117). -/
namespace Sys2Proof.Machine

/-! ### Buffers (R45) -/

/-- The canonical form of a buffer: indices strictly rising, each below `MAX_XFER`. -/
abbrev Memory.wf (m : Memory) : Prop :=
  m.Pairwise (fun a b => a.1 < b.1) ∧ ∀ c ∈ m, c.1 < maxXfer

/-- The byte at an index, if one has been written there. -/
def Memory.get : Memory → Nat → Option Byte
  | [], _ => none
  | (j, b) :: m, i => if j = i then some b else Memory.get m i

/-- Set the byte at an index, keeping the indices rising. -/
def Memory.set : Memory → Nat → Byte → Memory
  | [], i, v => [(i, v)]
  | (j, b) :: m, i, v =>
    if i < j then (i, v) :: (j, b) :: m
    else if i = j then (i, v) :: m
    else (j, b) :: Memory.set m i v

/-- `MemRead(buf, i, 1)` of `eng_buf` (R45): BUF_RANGE outside the buffer, UNWRITTEN_BUF where nothing was written (R20;
DEDUCED, log 14). -/
def memRead (m : Memory) (i : Nat) : Except Fault Byte :=
  if i < maxXfer then
    match m.get i with
    | some b => .ok b
    | none => .error .unwrittenBuf
  else .error .bufRange

/-- `MemWrite(buf, i, 1, v)` of `eng_buf` (R45). -/
def memWrite (m : Memory) (i : Nat) (v : Byte) : Except Fault Memory :=
  if i < maxXfer then .ok (m.set i v) else .error .bufRange

/-- Write the bytes of a list at `i`, `i + 1`, … (the copy loop of R82). -/
def memWriteAll (m : Memory) (i : Nat) : List Byte → Except Fault Memory
  | [] => .ok m
  | b :: bs =>
    match memWrite m i b with
    | .ok m' => memWriteAll m' (i + 1) bs
    | .error f => .error f

/-- Read `n` bytes from `i` on (the loop of R84). -/
def memReadAll (m : Memory) (i : Nat) : Nat → Except Fault (List Byte)
  | 0 => .ok []
  | n + 1 =>
    match memRead m i with
    | .ok b =>
      match memReadAll m (i + 1) n with
      | .ok bs => .ok (b :: bs)
      | .error f => .error f
    | .error f => .error f

/-! ### Faults (R126) -/

/-- Enter the fault state `f`: the name joins the set, which only grows (R37), and nothing else changes (R80). -/
def State.enterFault (s : State) (f : Fault) : State :=
  { s with fault := if f ∈ s.fault then s.fault else s.fault ++ [f] }

/-- The end of an atomic step (R12): the next state it reached, or the fault state it entered, in which nothing else of the
step has happened (log 13). -/
def commit (s : State) : Except Fault State → State
  | .ok s' => s'
  | .error f => s.enterFault f

/-! ### Emits (R38, R79) -/

/-- Append an item to the trace (R38). -/
def State.emit (s : State) (t : TraceItem) : State := { s with trace := s.trace ++ [t] }

/-- `emit P_START(a)` (R79): `p_owe` follows the R/W bit. -/
def State.emitStart (s : State) (a : Byte) : State :=
  { s.emit (.start a) with pOwe := if a.getLsbD 0 then .ackR else .ackW }

/-- `emit P_TX(b)` (R79). -/
def State.emitTx (s : State) (b : Byte) : State := { s.emit (.tx b) with pOwe := .ackW }

/-- `emit P_STOP` (R79). -/
def State.emitStop (s : State) : State :=
  { s.emit .stopReq with pStopPending := true, engStopreq := true }

/-- Record a value handed back to a caller (R11; log 16). -/
def State.giveBack (s : State) (r : ReturnItem) : State := { s with returns := s.returns ++ [r] }

/-- `seq_phase <- p` (R32). -/
def State.setPhase (s : State) (p : SeqPhase) : State := { s with seqPhase := p }

/-! ### SEQ operations that wait (R32, R109) -/

/-- Keep an operation that SEQ cannot start yet, after those kept before it (R109). -/
def State.hold (s : State) (i : Instr) : State := { s with held := s.held ++ [i] }

/-- SEQ can start an operation asked for now: it is in READY (R32), and none asked for earlier is still kept, for they are
taken in arrival order (R109). -/
def State.seqFree (s : State) : Bool := decide (s.seqPhase = .ready) && s.held.isEmpty

/-- Run a SEQ operation if it can start; else the request is kept, in order, until it can (R32, R109). -/
def whenReady (i : Instr) (act : State → Except Fault State) (s : State) : Host.Outcome State Fault Refusal :=
  if s.seqFree then .next (commit s (act s)) else .next (s.hold i)

/-! ### The engine call (R80 to R84) -/

/-- How many data bytes a call moves. -/
def Call.length : Call → Nat
  | .write _ data => data.length
  | .read _ n => n.toNat

/-- What a call of length 0 returns at once (R82, R83). -/
def Call.emptyResult : Call → CallResult
  | .write _ _ => .okWrite
  | .read _ _ => .okRead []

/-- The direction of a call (R15). -/
def Call.dir : Call → Dir
  | .write _ _ => .w
  | .read _ _ => .r

/-- The address of a call. -/
def Call.addr : Call → Addr7
  | .write a _ => a
  | .read a _ => a

/-- The bytes a call brings: the data of a write (R82), none for a read (R83). -/
def Call.data : Call → List Byte
  | .write _ data => data
  | .read _ _ => []

/-- Arm the engine: the atomic part of ENG_WRITE and ENG_READ, up to the START (R82, R83). -/
def State.arm (s : State) (c : Call) : Except Fault State :=
  match memWriteAll s.engBuf 0 c.data with
  | .error f => .error f
  | .ok buf =>
    .ok (State.emitStart
      { s with
        engDir := c.dir, engAddr := c.addr, engLen := BitVec.ofNat 8 c.length, engBuf := buf
        engIdx := 0, engRem := BitVec.ofNat 8 c.length, engErr := .none, engDone := false, engStopreq := false
        engState := .addr }
      (addressByte c.addr c.dir))

/-- How far an engine call got within a step: it returned, or SEQ is held in it. -/
inductive CallStep where
  | returned (r : CallResult) (s : State)
  | waiting (s : State)

/-- `write` or `read` (R82, R83) up to its first hold. SEQ waits in `phase` for the transaction to end (R131), or in
STOP_HOLD, with the call kept, for the prior STOP to be on the bus (R81). -/
def engCall (phase : SeqPhase) (c : Call) (s : State) : Except Fault CallStep :=
  if s.engState ≠ .idle then .error .engineBusy
  else if c.length = 0 then .ok (.returned c.emptyResult s)
  else if c.length > maxXfer then .error .xferTooLong
  else if s.pStopPending then
    .ok (.waiting { s with seqPhase := .stopHold, dispCtx := { s.dispCtx with pending := c, resume := phase } })
  else
    match s.arm c with
    | .ok s' => .ok (.waiting (s'.setPhase phase))
    | .error f => .error f

/-- `eng_result()` (R84). Bytes stored before an abort are discarded (D15). -/
def engResult (s : State) : Except Fault CallResult :=
  match s.engErr.busError with
  | some e => .ok (.err e)
  | none =>
    match s.engDir with
    | .w => .ok .okWrite
    | .r =>
      match memReadAll s.engBuf 0 s.engLen.toNat with
      | .ok bs => .ok (.okRead bs)
      | .error f => .error f

/-! ### Sending (R117) -/

/-- The next sequence number: modulo 255, so never 0xFF (R27, R118). -/
def nextSeq (q : Byte) : Byte := BitVec.ofNat 8 ((q.toNat + 1) % seqMod)

/-- `DISP_SEND(op, corr, payload)` (R117). -/
def State.dispSend (s : State) (op : OpType) (corr : Byte) (payload : List Byte) : State :=
  match codecEncode s.params.maxFrame op s.ownseq corr payload with
  | none => s.emit (.dropTx .overflow)
  | some bytes =>
    if s.linkConnected then { s.emit (.send s.linkChannel bytes) with ownseq := nextSeq s.ownseq }
    else s.emit (.dropTx .disconnected)

end Sys2Proof.Machine
end

