-- ==== Sys2Proof/Machine/Codec.lean ====
section
/-! DEFINITION. The FrameCodec as interface operations (R103 to R105): combinational, they only hand back a value, in every
phase of SEQ (log 24). -/
namespace Sys2Proof.Machine

/-- CODEC_ENCODE (R104). -/
def execCodecEncode (op : OpType) (seq corr : Byte) (payload : List Byte) (s : State) :
    Host.Outcome State Fault Refusal :=
  match codecEncode s.params.maxFrame op seq corr payload with
  | some bytes => .next (s.giveBack (.encoded bytes))
  | none => .next (s.giveBack (.encodeOverflow payload.length))

/-- CODEC_DECODE (R105). -/
def execCodecDecode (bytes : List Byte) (s : State) : Host.Outcome State Fault Refusal :=
  match codecDecode bytes with
  | some f => .next (s.giveBack (.decoded f))
  | none => .next (s.giveBack .truncated)

end Sys2Proof.Machine
end

