-- ==== Sys2Proof/Machine/Engine.lean ====
section
/-! DEFINITION. The BusEngine: the caller operations ENG_WRITE and ENG_READ (R82, R83), the handlers of TXE, RXF, NACK and
TIMEOUT (R85 to R94) with the peripheral's report of each (R96 to R98), and PE_STOPDONE (R99). -/
namespace Sys2Proof.Machine

/-! ### Caller operations -/

/-- An engine call made directly on the engine. A call to a busy engine is not accepted (R80); SEQ starts one only
when it can start an operation (R32; log 15); the value it returns is recorded. -/
def directCall (i : Instr) (c : Call) (s : State) : State :=
  if s.engState ≠ .idle then s.enterFault .engineBusy
  else if !s.seqFree then s.hold i
  else
    match engCall .callWait c s with
    | .ok (.returned r s') => s'.giveBack (.call r)
    | .ok (.waiting s') => s'
    | .error f => s.enterFault f

/-- ENG_WRITE (R82). -/
def execEngWrite (a : Addr7) (data : List Byte) (s : State) : Host.Outcome State Fault Refusal :=
  .next (directCall (.engWrite a data) (.write a data) s)

/-- ENG_READ (R83). -/
def execEngRead (a : Addr7) (n : Byte) (s : State) : Host.Outcome State Fault Refusal :=
  .next (directCall (.engRead a n) (.read a n) s)

/-- SEQ leaves the wait of a direct call and the call returns (R84, R131). -/
def finishCall (r : CallResult) (s : State) : State := (s.giveBack (.call r)).setPhase .ready

/-! ### Handlers -/

/-- An event the state and direction do not expect (R93). -/
def State.unexpected (s : State) : State := { s with engUnexp := true }

/-- TXE in ADDR (R86). -/
def txeAddr (s : State) : Except Fault State :=
  match s.engDir with
  | .w =>
    match memRead s.engBuf 0 with
    | .ok b => .ok { s.emitTx b with engIdx := 1, engState := if s.engLen = 1 then .compl else .xfer }
    | .error f => .error f
  | .r =>
    if s.engLen = 1 then .ok { s.emitStop with engState := .compl }
    else .ok { s with engState := .xfer }

/-- TXE in XFER on a write (R87). -/
def txeXfer (s : State) : Except Fault State :=
  match memRead s.engBuf s.engIdx.toNat with
  | .ok b =>
    .ok { s.emitTx b with
      engRem := s.engRem - 1
      engIdx := s.engIdx + 1
      engState := if s.engIdx + 1 = s.engLen then .compl else .xfer }
  | .error f => .error f

/-- TXE in COMPL on a write (R88). -/
def txeCompl (s : State) : State :=
  { s.emitStop with engRem := 0, engState := .idle, engDone := true }

/-- The TXE handler, chosen by state and direction (R85). -/
def handleTxe (s : State) : Except Fault State :=
  match s.engState, s.engDir with
  | .addr, .w => txeAddr s
  | .addr, .r => txeAddr s
  | .xfer, .w => txeXfer s
  | .compl, .w => .ok (txeCompl s)
  | .xfer, .r => .ok s.unexpected
  | .compl, .r => .ok s.unexpected
  | .idle, .w => .ok s.unexpected
  | .idle, .r => .ok s.unexpected

/-- RXF in XFER on a read (R90). -/
def rxfXfer (b : Byte) (s : State) : Except Fault State :=
  match memWrite s.engBuf s.engIdx.toNat b with
  | .ok buf =>
    let s' := { s with engBuf := buf, engIdx := s.engIdx + 1, engRem := s.engRem - 1 }
    .ok (if s.engRem - 1 = 1 then { s'.emitStop with engState := .compl } else s')
  | .error f => .error f

/-- RXF in COMPL on a read (R91). -/
def rxfCompl (b : Byte) (s : State) : Except Fault State :=
  match memWrite s.engBuf s.engIdx.toNat b with
  | .ok buf => .ok { s with engBuf := buf, engIdx := s.engIdx + 1, engRem := 0, engState := .idle, engDone := true }
  | .error f => .error f

/-- The RXF handler, chosen by state and direction (R89). -/
def handleRxf (b : Byte) (s : State) : Except Fault State :=
  match s.engState, s.engDir with
  | .xfer, .r => rxfXfer b s
  | .compl, .r => rxfCompl b s
  | .xfer, .w => .ok s.unexpected
  | .compl, .w => .ok s.unexpected
  | .addr, .w => .ok s.unexpected
  | .addr, .r => .ok s.unexpected
  | .idle, .w => .ok s.unexpected
  | .idle, .r => .ok s.unexpected

/-- Abort the transaction with an error: STOP is requested unless it already was (R92, R94; D13). -/
def State.abort (s : State) (e : EngErr) : State :=
  { (if s.engStopreq then s else s.emitStop) with engErr := e, engState := .idle, engDone := true }

/-- The NACK handler (R92). -/
def handleNack (s : State) : State :=
  if s.engState = .idle then s.unexpected else s.abort .noack

/-! ### Events: the peripheral's report and the handler are one step (R95) -/

/-- The peripheral's side of TXE (R96). An event it does not owe changes nothing of its own (log 11). -/
def oweAfterTxe : Owe → Owe
  | .ackR => .rx
  | .ackW => .none
  | .none => .none
  | .rx => .rx

/-- The peripheral's side of NACK (R97; log 11). -/
def oweAfterNack : Owe → Owe
  | .ackR => .none
  | .ackW => .none
  | .none => .none
  | .rx => .rx

/-- The peripheral's side of RXF (R98; log 11): reception ends after a byte that arrives with a STOP pending. -/
def oweAfterRxf (stopPending : Bool) : Owe → Owe
  | .rx => if stopPending then .none else .rx
  | .ackR => .ackR
  | .ackW => .ackW
  | .none => .none

/-- When a step of PERIPH is enabled: a byte's acknowledge is reported while it is owed (R96, R97), a received byte while
reception is on (R98), and the STOP completes once nothing is owed (R99). A conforming peripheral takes no other step. -/
def periphEnabled (e : PeriphStep) (s : State) : Bool :=
  match e with
  | .txe => decide (s.pOwe = .ackW) || decide (s.pOwe = .ackR)
  | .nack => decide (s.pOwe = .ackW) || decide (s.pOwe = .ackR)
  | .rxf _ => decide (s.pOwe = .rx)
  | .stopdone => s.pStopPending && decide (s.pOwe = .none)

/-- EV_TXE: PE_TXE and its handler (R96, R85). -/
def execEvTxe (s : State) : Host.Outcome State Fault Refusal :=
  .next (commit s (handleTxe { s.emit .evTxe with pOwe := oweAfterTxe s.pOwe }))

/-- EV_RXF(b): PE_RXF(b) and its handler (R98, R89). -/
def execEvRxf (b : Byte) (s : State) : Host.Outcome State Fault Refusal :=
  .next (commit s (handleRxf b { s.emit (.evRxf b) with pOwe := oweAfterRxf s.pStopPending s.pOwe }))

/-- EV_NACK: PE_NACK and its handler (R97, R92). -/
def execEvNack (s : State) : Host.Outcome State Fault Refusal :=
  .next (handleNack { s.emit .evNack with pOwe := oweAfterNack s.pOwe })

/-- EV_TIMEOUT (R94): a step only of a core with the watchdog, while a transaction is active; else no step (log 10, 12). -/
def execEvTimeout (s : State) : Host.Outcome State Fault Refusal :=
  if s.params.watchdog = .enabled ∧ s.engState ≠ .idle then
    .next ({ s.emit .evTimeout with pOwe := .none }.abort .timeout)
  else .next s

/-- PE_STOPDONE (R99): a step only while STOP is pending and nothing is owed; else no step (log 10). -/
def execPeStopdone (s : State) : Host.Outcome State Fault Refusal :=
  if s.pStopPending ∧ s.pOwe = .none then
    .next { s.emit .stopDone with pStopPending := false }
  else .next s

end Sys2Proof.Machine
end

