-- ==== Sys2Proof/Machine/Dispatcher.lean ====
section
/-! DEFINITION. The ProtocolDispatcher: link lifecycle (R107, R108), frame delivery (R109), the frame commands (R110 to R115),
the unsolicited request (R116), sending (R117), and the steps by which SEQ leaves a wait inside a command (R112, R113, R131). -/
namespace Sys2Proof.Machine

/-! ### Link lifecycle: enabled in every phase (R107, D45; log 23) -/

/-- LINK_OPEN (R107). -/
def execLinkOpen (ch : ChannelId) (s : State) : Host.Outcome State Fault Refusal :=
  .next { s with linkConnected := true, linkChannel := ch }

/-- LINK_CLOSE (R108). A close while disconnected changes nothing (D35); else the channel becomes invalid: any
value of CHANNEL_ID (I6; log 3). -/
def execLinkClose (s : State) : Host.Outcome State Fault Refusal :=
  if s.linkConnected then
    .next { s with
      linkConnected := false
      linkChannel := s.params.channel (Config.freeChannel s.freeCount), freeCount := s.freeCount + 1 }
  else .next s

/-! ### Frames dropped silently -/

/-- A reserved `op_type` (R110). -/
def dropReserved (s : State) : Except Fault State := .ok (s.emit (.dropRx .unknownOpType))

/-- A malformed I2C or GPIO frame (R111). -/
def dropMalformed (s : State) : Except Fault State := .ok (s.emit (.dropRx .malformed))

/-! ### I2C write (R112) -/

/-- The response to a write request, once its call has returned `r` (R112). -/
def finishWrite (r : CallResult) (s : State) : State :=
  (s.dispSend 0 s.dispCtx.rseq
    (writeResponse s.dispCtx.addr (statusByte r.isErr 0) s.dispCtx.data)).setPhase .ready

/-- I2C_WRITE (R112), up to its first hold (DEDUCED, log 20). The fields of `disp_ctx` R112 does not list stay (log 21). -/
def startWrite (rseq : Byte) (a : Addr7) (data : List Byte) (s : State) : Except Fault State :=
  match engCall .wWait (.write a data)
      { s with seqPhase := .wWait, dispCtx := { s.dispCtx with rseq := rseq, addr := a, data := data } } with
  | .ok (.returned r s') => .ok (finishWrite r s')
  | .ok (.waiting s') => .ok s'
  | .error f => .error f

/-! ### I2C read (R113) -/

/-- The response to a read request, once its read has returned `r` (R113). -/
def finishRead (r : CallResult) (s : State) : State :=
  (s.dispSend 0 s.dispCtx.rseq
    (readResponse s.dispCtx.addr (statusByte (!s.dispCtx.wok || r.isErr) (readCount r s.dispCtx.rlen))
      s.dispCtx.sel r.bytes)).setPhase .ready

/-- The read phase, attempted whatever the select write returned (R113, D17). -/
def finishSelect (w : CallResult) (s : State) : Except Fault State :=
  match engCall .rdWait (.read s.dispCtx.addr (s.dispCtx.rlen.setWidth 8))
      { s with seqPhase := .rdWait, dispCtx := { s.dispCtx with wok := !w.isErr } } with
  | .ok (.returned r s') => .ok (finishRead r s')
  | .ok (.waiting s') => .ok s'
  | .error f => .error f

/-- I2C_READ (R113), up to its first hold (log 20, 21). -/
def startRead (rseq : Byte) (a : Addr7) (rlen : BitVec 5) (sel : List Byte) (s : State) : Except Fault State :=
  match engCall .selWait (.write a sel)
      { s with
        seqPhase := .selWait
        dispCtx := { s.dispCtx with rseq := rseq, addr := a, sel := sel, rlen := rlen } } with
  | .ok (.returned w s') => finishSelect w s'
  | .ok (.waiting s') => .ok s'
  | .error f => .error f

/-! ### GPIO requests (R114, R115) -/

/-- A request with a supported group: a fresh read of the pins; `gpio_last` is not touched (R114, R124). -/
def answerPins (rseq : Byte) (g : GroupId) (s : State) : Except Fault State :=
  .ok (s.dispSend 1 rseq (pinsResponse g (pinByte s.params.pinMask (sampledPins s))))

/-- A request with an unsupported group (R115). -/
def answerBadGroup (rseq : Byte) (g : GroupId) (s : State) : Except Fault State :=
  .ok (s.dispSend 1 rseq (badGroupResponse g))

/-- The unsolicited request (R116). -/
def State.gpioChange (s : State) (v : Byte) : State :=
  s.dispSend 1 sentinel (unsolicitedPayload s.params (pinByte s.params.pinMask v))

/-! ### The frame commands as instructions -/

/-- I2C_EMPTY (R111). -/
def execI2cEmpty (seq corr : Byte) (s : State) : Host.Outcome State Fault Refusal :=
  whenReady (.i2cEmpty seq corr) dropMalformed s

/-- GPIO_EMPTY (R111). -/
def execGpioEmpty (seq corr : Byte) (s : State) : Host.Outcome State Fault Refusal :=
  whenReady (.gpioEmpty seq corr) dropMalformed s

/-- RSVD_OP2 (R110). -/
def execRsvdOp2 (seq corr : Byte) (p : List Byte) (s : State) : Host.Outcome State Fault Refusal :=
  whenReady (.rsvdOp2 seq corr p) dropReserved s

/-- RSVD_OP3 (R110). -/
def execRsvdOp3 (seq corr : Byte) (p : List Byte) (s : State) : Host.Outcome State Fault Refusal :=
  whenReady (.rsvdOp3 seq corr p) dropReserved s

/-- RSVD_OP4 (R110). -/
def execRsvdOp4 (seq corr : Byte) (p : List Byte) (s : State) : Host.Outcome State Fault Refusal :=
  whenReady (.rsvdOp4 seq corr p) dropReserved s

/-- RSVD_OP5 (R110). -/
def execRsvdOp5 (seq corr : Byte) (p : List Byte) (s : State) : Host.Outcome State Fault Refusal :=
  whenReady (.rsvdOp5 seq corr p) dropReserved s

/-- RSVD_OP6 (R110). -/
def execRsvdOp6 (seq corr : Byte) (p : List Byte) (s : State) : Host.Outcome State Fault Refusal :=
  whenReady (.rsvdOp6 seq corr p) dropReserved s

/-- RSVD_OP7 (R110). -/
def execRsvdOp7 (seq corr : Byte) (p : List Byte) (s : State) : Host.Outcome State Fault Refusal :=
  whenReady (.rsvdOp7 seq corr p) dropReserved s

/-- I2C_READ_SHORT (R111). -/
def execI2cReadShort (seq corr : Byte) (a : Addr7) (s : State) : Host.Outcome State Fault Refusal :=
  whenReady (.i2cReadShort seq corr a) dropMalformed s

/-- I2C_READ (R113). The inbound `corr` and the unused bits are ignored (R66, D44). -/
def execI2cRead (seq corr : Byte) (a : Addr7) (unused : BitVec 3) (rlen : BitVec 5) (sel : List Byte) (s : State) :
    Host.Outcome State Fault Refusal :=
  whenReady (.i2cRead seq corr a unused rlen sel) (startRead seq a rlen sel) s

/-- I2C_WRITE (R112). -/
def execI2cWrite (seq corr : Byte) (a : Addr7) (data : List Byte) (s : State) : Host.Outcome State Fault Refusal :=
  whenReady (.i2cWrite seq corr a data) (startWrite seq a data) s

/-- GPIO_READ (R114). `is_request`, bits 6:5 and the bytes after `p[0]` are ignored (R69, D20). -/
def execGpioRead (seq corr : Byte) (isReq : BitVec 1) (unused : BitVec 2) (g : GroupId) (rest : List Byte) (s : State) :
    Host.Outcome State Fault Refusal :=
  whenReady (.gpioRead seq corr isReq unused g rest) (answerPins seq g) s

/-- GPIO_BADGROUP (R115). -/
def execGpioBadgroup (seq corr : Byte) (isReq : BitVec 1) (unused : BitVec 2) (g : GroupId) (rest : List Byte)
    (s : State) : Host.Outcome State Fault Refusal :=
  whenReady (.gpioBadgroup seq corr isReq unused g rest) (answerBadGroup seq g) s

/-! ### Frame delivery (R109) -/

/-- Apply the rule of the decode table's row to a frame (R109). -/
def runCommand : FrameCmd → State → Except Fault State
  | .i2cEmpty _ _, s => dropMalformed s
  | .gpioEmpty _ _, s => dropMalformed s
  | .rsvdOp2 _ _ _, s => dropReserved s
  | .rsvdOp3 _ _ _, s => dropReserved s
  | .rsvdOp4 _ _ _, s => dropReserved s
  | .rsvdOp5 _ _ _, s => dropReserved s
  | .rsvdOp6 _ _ _, s => dropReserved s
  | .rsvdOp7 _ _ _, s => dropReserved s
  | .i2cReadShort _ _ _, s => dropMalformed s
  | .i2cRead seq _ a _ rlen sel, s => startRead seq a rlen sel s
  | .i2cWrite seq _ a data, s => startWrite seq a data s
  | .gpioRead seq _ _ _ g _, s => answerPins seq g s
  | .gpioBadgroup seq _ _ _ g _, s => answerBadGroup seq g s

/-- Decode a delivered buffer, drop it if it is Truncated, else run its command (R109). A frame that CODEC_DECODE accepts
always has a row (R74), so every error of the decoder is Truncated. -/
def deliver (b : List Byte) (s : State) : Except Fault State :=
  match decodeFrame s.params.supportedGroups b with
  | .ok c => runCommand c s
  | .error _ => .ok (s.emit (.dropRx .truncated))

/-- FRAME_DELIVER (R109). The channel is ignored: a response goes to `link_channel`. -/
def execFrameDeliver (ch : ChannelId) (b : List Byte) (s : State) : Host.Outcome State Fault Refusal :=
  whenReady (.frameDeliver ch b) (deliver b) s

/-! ### Internal operations of SEQ (log 24) -/

/-- GPIO_CHANGE (R116). -/
def execGpioChange (v : Byte) (s : State) : Host.Outcome State Fault Refusal :=
  whenReady (.gpioChange v) (fun s => .ok (s.gpioChange v)) s

/-- DISP_SEND (R117). -/
def execDispSend (op : OpType) (corr : Byte) (p : List Byte) (s : State) : Host.Outcome State Fault Refusal :=
  whenReady (.dispSend op corr p) (fun s => .ok (s.dispSend op corr p)) s

/-! ### SEQ's own steps -/

/-- Leave the low-power wait once `eng_done` is 1 (R131), with the call's result (R84); else SEQ is held. -/
def leaveWait (k : CallResult → State → Except Fault State) (s : State) : State :=
  if s.engDone then
    commit s (match engResult s with
      | .ok r => k r s
      | .error f => .error f)
  else s

/-- SEQ's next step inside the operation it is in (R32): arm the pending call once the prior STOP is on the bus (R81), or
leave the wait (R131) and go on with the operation (R112, R113) to its next hold (log 20). In READY there is none. -/
def resumeSeq (s : State) : State :=
  match s.seqPhase with
  | .ready => s
  | .stopHold =>
    if s.pStopPending then s
    else commit s (match s.arm s.dispCtx.pending with
      | .ok s' => .ok (s'.setPhase s.dispCtx.resume)
      | .error f => .error f)
  | .wWait => leaveWait (fun r s => .ok (finishWrite r s)) s
  | .selWait => leaveWait finishSelect s
  | .rdWait => leaveWait (fun r s => .ok (finishRead r s)) s
  | .callWait => leaveWait (fun r s => .ok (finishCall r s)) s

end Sys2Proof.Machine
end

