-- ==== Sys2Proof/Machine/Gpio.lean ====
section
/-! DEFINITION. The GpioSampler (R121 to R124). -/
namespace Sys2Proof.Machine

/-- `poll()` (R121): on any difference the snapshot is updated and the dispatcher called. -/
def State.poll (s : State) : State :=
  if sampledPins s ≠ s.gpioLast then { s with gpioLast := sampledPins s }.gpioChange (sampledPins s) else s

/-- GPIO_POLL (R121). -/
def execGpioPoll (s : State) : Host.Outcome State Fault Refusal :=
  whenReady .gpioPoll (fun s => .ok s.poll) s

end Sys2Proof.Machine
end

