-- ==== Sys2Proof/Machine/Dispatch.lean ====
section
/-! DEFINITION. The dispatch of an instruction to its meaning, one arm per constructor. -/
namespace Sys2Proof.Machine

/-- Run one instruction. -/
def exec (i : Instr) (s : State) : Host.Outcome State Fault Refusal :=
  match i with
  | .i2cEmpty seq corr => Sys2Proof.Machine.execI2cEmpty seq corr s
  | .gpioEmpty seq corr => Sys2Proof.Machine.execGpioEmpty seq corr s
  | .rsvdOp2 seq corr p => Sys2Proof.Machine.execRsvdOp2 seq corr p s
  | .rsvdOp3 seq corr p => Sys2Proof.Machine.execRsvdOp3 seq corr p s
  | .rsvdOp4 seq corr p => Sys2Proof.Machine.execRsvdOp4 seq corr p s
  | .rsvdOp5 seq corr p => Sys2Proof.Machine.execRsvdOp5 seq corr p s
  | .rsvdOp6 seq corr p => Sys2Proof.Machine.execRsvdOp6 seq corr p s
  | .rsvdOp7 seq corr p => Sys2Proof.Machine.execRsvdOp7 seq corr p s
  | .i2cReadShort seq corr a => Sys2Proof.Machine.execI2cReadShort seq corr a s
  | .i2cRead seq corr a u n sel => Sys2Proof.Machine.execI2cRead seq corr a u n sel s
  | .i2cWrite seq corr a data => Sys2Proof.Machine.execI2cWrite seq corr a data s
  | .gpioRead seq corr r u g rest => Sys2Proof.Machine.execGpioRead seq corr r u g rest s
  | .gpioBadgroup seq corr r u g rest => Sys2Proof.Machine.execGpioBadgroup seq corr r u g rest s
  | .engWrite a data => Sys2Proof.Machine.execEngWrite a data s
  | .engRead a n => Sys2Proof.Machine.execEngRead a n s
  | .evTxe => Sys2Proof.Machine.execEvTxe s
  | .evRxf b => Sys2Proof.Machine.execEvRxf b s
  | .evNack => Sys2Proof.Machine.execEvNack s
  | .evTimeout => Sys2Proof.Machine.execEvTimeout s
  | .peStopdone => Sys2Proof.Machine.execPeStopdone s
  | .linkOpen ch => Sys2Proof.Machine.execLinkOpen ch s
  | .linkClose => Sys2Proof.Machine.execLinkClose s
  | .frameDeliver ch b => Sys2Proof.Machine.execFrameDeliver ch b s
  | .gpioPoll => Sys2Proof.Machine.execGpioPoll s
  | .codecEncode op seq corr p => Sys2Proof.Machine.execCodecEncode op seq corr p s
  | .codecDecode b => Sys2Proof.Machine.execCodecDecode b s
  | .gpioChange v => Sys2Proof.Machine.execGpioChange v s
  | .dispSend op corr p => Sys2Proof.Machine.execDispSend op corr p s

end Sys2Proof.Machine
end

