-- ==== Sys2Proof/Machine/Fetch.lean ====
section
/-! DEFINITION. Where `step` finds what happens next: the choice at the head of `inputs` (R6, R52; log 8), and the notation
R76 gives the environment's choices. -/
namespace Sys2Proof.Machine

/-- The choice at the head of `inputs` is made: it is no longer to come. -/
def State.advance (s : State) : State := { s with inputs := s.inputs.tail }

/-- What the next step is. -/
inductive Fetched where
  /-- The instruction `i` is presented. -/
  | run (i : Instr)
  /-- SEQ takes its next step, if it has one. -/
  | seq
  /-- PINS drives the input register. -/
  | pins (v : Byte)
  /-- Nothing: the choice is taken and has no effect (a reserved code, R75, I17; a step of PERIPH that is not enabled, R12). -/
  | nothing
  deriving DecidableEq, Repr

/-- The instruction a raw form presents. A frame that does not decode is one that CODEC_DECODE rejects as Truncated; it goes to
FRAME_DELIVER, which drops it (R73, R105, R109; log 7). An interface word that is no operation has no effect (I17; log 18),
nor has one with a channel that is not of CHANNEL_ID (log 2). -/
def fetchPort (p : Params) (e : Encoded) : Fetched :=
  match decode p e, e with
  | .ok i, _ => .run i
  | .error _, .frame bytes => .run (.frameDeliver 0 bytes)
  | .error _, .ifc _ => .nothing

/-- The instruction a step of PERIPH is, where that step is enabled (R95 to R99); else there is no step (R12; log 10). -/
def fetchPeriph (e : PeriphStep) (s : State) : Fetched :=
  if periphEnabled e s then .run e.toInstr else .nothing

/-- What the choice at the head of `inputs` asks for; with no choice to come, SEQ moves by itself. -/
def State.fetch (s : State) : Fetched :=
  match s.inputs with
  | [] => .seq
  | .seq :: _ => .seq
  | .pins v :: _ => .pins v
  | .periph e :: _ => fetchPeriph e s
  | .port e :: _ => fetchPort s.params e

/-- Present the raw form `e` next: it is the choice at the head of `inputs`, and the machine is in no fault state. -/
def State.presenting (s : State) (e : Encoded) : State :=
  { s with inputs := .port e :: s.inputs, fault := [] }

/-! ### Script lines (R76) -/

/-- `HOST OPEN ch`. -/
def hostOpen (ch : ChannelId) : Slot := .port (encode (.linkOpen ch))

/-- `HOST CLOSE`. -/
def hostClose : Slot := .port (encode .linkClose)

/-- `HOST DELIVER [bytes]`. -/
def hostDeliver (ch : ChannelId) (bytes : List Byte) : Slot := .port (encode (.frameDeliver ch bytes))

/-- `PERIPH ACK`. -/
def periphAck : Slot := .periph .txe

/-- `PERIPH NACK`. -/
def periphNack : Slot := .periph .nack

/-- `PERIPH RX b`. -/
def periphRx (b : Byte) : Slot := .periph (.rxf b)

/-- `PERIPH STOPDONE`. -/
def periphStopdone : Slot := .periph .stopdone

/-- `WDT TIMEOUT`. -/
def wdtTimeout : Slot := .port (encode .evTimeout)

/-- `TICK`. -/
def tick : Slot := .port (encode .gpioPoll)

end Sys2Proof.Machine
end

