-- ==== Sys2Proof/Machine/Step.lean ====
section
/-! DEFINITION. One step of the machine: the agent chosen next moves. -/
namespace Sys2Proof.Machine

/-- Run the first of the kept operations `i :: rest`; the others stay kept, in order (R109). -/
def runKept (i : Instr) (rest : List Instr) (s : State) : Host.Outcome State Fault Refusal :=
  match exec i { s with held := [] } with
  | .next s' => .next { s' with held := s'.held ++ rest }
  | .fault f => .fault f
  | .refused r => .refused r

/-- SEQ's next step: inside its operation (`resumeSeq`), or, in READY, the first operation kept for it (R32, R109, R134). With
nothing enabled SEQ takes no step. -/
def seqStep (s : State) : Host.Outcome State Fault Refusal :=
  match s.seqPhase, s.held with
  | .ready, i :: rest => runKept i rest s
  | _, _ => .next (resumeSeq s)

/-- One step (R12), untimed (log 22). A faulted state is never left (R11, R37): the machine has stopped there. -/
def step (s : State) : Host.Outcome State Fault Refusal :=
  match s.fault with
  | f :: _ => .fault f
  | [] =>
    match s.fetch with
    | .run i => exec i s.advance
    | .seq => seqStep s.advance
    | .pins v => .next { s.advance with pinReg := v }
    | .nothing => .next s.advance

/-- `s` with the instruction whose bits are `w` presented next (log 8). -/
def State.withFetchWord (s : State) (nbits w : Nat) : State := s.presenting (encodedOfTableWord nbits w)

end Sys2Proof.Machine
end

