-- ==== Sys2Proof/Safety.lean ====
section
/-! DEFINITION. What counts as a safe run: no fault (R126), the invariants the rules state of every reachable state (R19, R20,
R25, R27, R29, R34, R77, R84, R87, R90, R91), and what a step adds to the trace. -/
namespace Sys2Proof.Machine

/-- No fault has been entered (R37). -/
def State.faultFree (s : State) : Prop := s.fault = []

/-- A state a run may end in (R37): no fault, no operation in progress or asked for, no STOP still to reach the bus. -/
def State.quiescent (s : State) : Prop :=
  s.faultFree ∧ s.seqPhase = .ready ∧ s.held = [] ∧ s.engState = .idle ∧ s.pStopPending = false

/-! ### The invariant -/

/-- The value ranges of R34: `ownseq` in 0..254, no snapshot bit outside `PIN_MASK`, `eng_idx` and `eng_rem` at most
`eng_len`; the buffer in canonical form; the channel one
of CHANNEL_ID (R7, R28). -/
def State.rangesOk (s : State) : Prop :=
  s.ownseq.toNat < seqMod ∧ s.params.isChannel s.linkChannel = true ∧ s.gpioLast &&& ~~~ s.params.pinMask = 0 ∧
    s.engIdx.toNat ≤ s.engLen.toNat ∧ s.engRem.toNat ≤ s.engLen.toNat ∧ s.engBuf.wf

/-- The engine's counters in each state (R77, R86 to R91) and what the peripheral then owes (R25, R79). -/
def State.engineOk (s : State) : Prop :=
  match s.engState, s.engDir with
  | .idle, _ => s.pOwe = .none ∨ s.pOwe = .rx ∧ s.pStopPending = true
  | .addr, d =>
    s.engIdx = 0 ∧ s.engRem = s.engLen ∧ 0 < s.engLen.toNat ∧ s.engStopreq = false ∧ s.engDone = false ∧
      s.engErr = .none ∧ s.pStopPending = false ∧ s.pOwe = (match d with | .w => .ackW | .r => .ackR)
  | .xfer, .w =>
    0 < s.engIdx.toNat ∧ s.engIdx.toNat < s.engLen.toNat ∧ s.engRem.toNat + s.engIdx.toNat = s.engLen.toNat + 1 ∧
      s.engStopreq = false ∧ s.engDone = false ∧ s.engErr = .none ∧ s.pStopPending = false ∧ s.pOwe = .ackW
  | .xfer, .r =>
    2 ≤ s.engRem.toNat ∧ s.engIdx.toNat + s.engRem.toNat = s.engLen.toNat ∧
      s.engStopreq = false ∧ s.engDone = false ∧ s.engErr = .none ∧ s.pStopPending = false ∧ s.pOwe = .rx
  | .compl, .w =>
    0 < s.engLen.toNat ∧ s.engIdx = s.engLen ∧ s.engRem = 1 ∧
      s.engStopreq = false ∧ s.engDone = false ∧ s.engErr = .none ∧ s.pStopPending = false ∧ s.pOwe = .ackW
  | .compl, .r =>
    s.engRem = 1 ∧ s.engIdx.toNat + 1 = s.engLen.toNat ∧
      s.engStopreq = true ∧ s.engDone = false ∧ s.engErr = .none ∧ s.pStopPending = true ∧ s.pOwe = .rx

/-- The bytes below `n` of `eng_buf` have been written. -/
def State.written (s : State) (n : Nat) : Prop := ∀ i < n, (s.engBuf.get i).isSome = true

/-- Which bytes of `eng_buf` hold values (R20): all the data of an active write, the bytes received by an active read, and
all of a read that has ended well. -/
def State.bufferOk (s : State) : Prop :=
  match s.engState, s.engDir with
  | .idle, .w => True
  | .idle, .r => s.engDone = true → s.engErr = .none → s.written s.engLen.toNat
  | .addr, .w => s.written s.engLen.toNat
  | .xfer, .w => s.written s.engLen.toNat
  | .compl, .w => s.written s.engLen.toNat
  | .addr, .r => s.written s.engIdx.toNat
  | .xfer, .r => s.written s.engIdx.toNat
  | .compl, .r => s.written s.engIdx.toNat

/-- A transaction is active, or it has ended and its result has not been read (R22, R131). -/
def State.inCall (s : State) : Prop :=
  s.engState ≠ .idle ∧ s.engDone = false ∨ s.engState = .idle ∧ s.engDone = true

/-- The wait that follows a kept call: a write is waited for in W_WAIT or SEL_WAIT, a read in RD_WAIT (R32), a direct call of
either kind in `callWait` (log 15). -/
def resumesOk : SeqPhase → Call → Prop
  | .wWait, .write _ _ => True
  | .selWait, .write _ _ => True
  | .rdWait, .read _ _ => True
  | .callWait, _ => True
  | _, _ => False

/-- What SEQ's phase says of the engine (R14, R32, R81, R144). -/
def State.seqOk (s : State) : Prop :=
  match s.seqPhase with
  | .ready => s.engState = .idle
  | .wWait => s.inCall ∧ s.engDir = .w
  | .selWait => s.inCall ∧ s.engDir = .w
  | .rdWait => s.inCall ∧ s.engDir = .r
  | .callWait => s.inCall
  | .stopHold =>
    s.engState = .idle ∧ 0 < s.dispCtx.pending.length ∧ s.dispCtx.pending.length ≤ maxXfer ∧
      resumesOk s.dispCtx.resume s.dispCtx.pending

/-- Is this one of the operations SEQ takes in arrival order (R32, R109, R134)? -/
def isSeqOperation : Instr → Bool
  | .i2cEmpty _ _ => true
  | .gpioEmpty _ _ => true
  | .rsvdOp2 _ _ _ => true
  | .rsvdOp3 _ _ _ => true
  | .rsvdOp4 _ _ _ => true
  | .rsvdOp5 _ _ _ => true
  | .rsvdOp6 _ _ _ => true
  | .rsvdOp7 _ _ _ => true
  | .i2cReadShort _ _ _ => true
  | .i2cRead _ _ _ _ _ _ => true
  | .i2cWrite _ _ _ _ => true
  | .gpioRead _ _ _ _ _ _ => true
  | .gpioBadgroup _ _ _ _ _ _ => true
  | .engWrite _ _ => true
  | .engRead _ _ => true
  | .evTxe => false
  | .evRxf _ => false
  | .evNack => false
  | .evTimeout => false
  | .peStopdone => false
  | .linkOpen _ => false
  | .linkClose => false
  | .frameDeliver _ _ => true
  | .gpioPoll => true
  | .codecEncode _ _ _ _ => false
  | .codecDecode _ => false
  | .gpioChange _ => true
  | .dispSend _ _ _ => true

/-- Only SEQ operations are kept for SEQ (R109, R134; log 9). -/
def State.heldOk (s : State) : Prop := ∀ i ∈ s.held, isSeqOperation i = true

/-- The invariant of the machine. -/
def State.Inv (s : State) : Prop := s.rangesOk ∧ s.engineOk ∧ s.bufferOk ∧ s.seqOk ∧ s.heldOk

/-! ### Runs with a conforming peripheral (R95 to R99) -/

/-- The report of an event of the I2C peripheral (R40, R96 to R98). -/
def isReport (i : Instr) : Prop := i = .evTxe ∨ i = .evNack ∨ ∃ b, i = .evRxf b

/-- The next choice injects no event: none is presented past PERIPH, whose own steps are taken only where they are enabled. -/
def State.conforming (s : State) : Prop :=
  ∀ e rest i, s.inputs = .port e :: rest → decode s.params e = .ok i → ¬ isReport i

/-- With the engine idle the peripheral owes nothing (R25, R96 to R98). -/
def State.oweOk (s : State) : Prop := s.engState = .idle → s.pOwe = .none

/-! ### What the next step is -/

/-- SEQ moves next, and the choices after that are `rest`: it is chosen, or no choice is to come (log 8). -/
abbrev State.seqIsNext (s : State) (rest : List Slot) : Prop :=
  s.inputs = .seq :: rest ∨ s.inputs = [] ∧ rest = []

/-- The instruction that the next step performs: the one presented, or in READY the first one kept for SEQ. SEQ's steps inside
an operation and PINS perform none. -/
def State.performs (s : State) : Option Instr :=
  match s.fetch with
  | .run i => some i
  | .seq => if s.seqPhase = .ready then s.held.head? else none
  | .pins _ => none
  | .nothing => none

/-! ### Requests a correct system makes -/

/-- No rule of R126 can be broken by this instruction: it is no call made directly on the engine, and a frame command's
data fits a frame (R12, R80, R82). -/
def harmless : Instr → Bool
  | .engWrite _ _ => false
  | .engRead _ _ => false
  | .i2cRead _ _ _ _ _ sel => decide (sel.length ≤ maxXfer)
  | .i2cWrite _ _ _ data => decide (data.length ≤ maxXfer)
  | .i2cEmpty _ _ => true
  | .gpioEmpty _ _ => true
  | .rsvdOp2 _ _ _ => true
  | .rsvdOp3 _ _ _ => true
  | .rsvdOp4 _ _ _ => true
  | .rsvdOp5 _ _ _ => true
  | .rsvdOp6 _ _ _ => true
  | .rsvdOp7 _ _ _ => true
  | .i2cReadShort _ _ _ => true
  | .gpioRead _ _ _ _ _ _ => true
  | .gpioBadgroup _ _ _ _ _ _ => true
  | .evTxe => true
  | .evRxf _ => true
  | .evNack => true
  | .evTimeout => true
  | .peStopdone => true
  | .linkOpen _ => true
  | .linkClose => true
  | .frameDeliver _ _ => true
  | .gpioPoll => true
  | .codecEncode _ _ _ _ => true
  | .codecDecode _ => true
  | .gpioChange _ => true
  | .dispSend _ _ _ => true

/-- What the next step runs, and what is kept for SEQ, is harmless. -/
def State.calm (s : State) : Prop :=
  (∀ i, s.fetch = .run i → harmless i = true) ∧ ∀ i ∈ s.held, harmless i = true

/-! ### What R117 says of a send, and what R82 and R83 say of arming, without the functions that do it -/

/-- From `s`, the frame `(op, ownseq, corr, payload)` is sent or dropped, and the state is then `t` (R104, R117). -/
def sends (s : State) (op : OpType) (corr : Byte) (payload : List Byte) (t : State) : Prop :=
  if payload.length + 3 > s.params.maxFrame then
    t = { s with trace := s.trace ++ [.dropTx .overflow] }
  else if s.linkConnected = false then
    t = { s with trace := s.trace ++ [.dropTx .disconnected] }
  else
    t = { s with
      trace := s.trace ++ [.send s.linkChannel
        (((op.setWidth 8 <<< 5) ||| BitVec.ofNat 8 (payload.length + 3)) :: s.ownseq :: corr :: payload)]
      ownseq := BitVec.ofNat 8 ((s.ownseq.toNat + 1) % 255) }

/-- From `s`, the engine is armed for a write of `data` to `a`, and the state is then `t` (R82). -/
def armsWrite (s : State) (a : Addr7) (data : List Byte) (t : State) : Prop :=
  ∃ buf : Memory,
    (∀ j, buf.get j = if j < data.length then data[j]? else s.engBuf.get j) ∧
    t = { s with
      engState := .addr, engDir := .w, engAddr := a, engLen := BitVec.ofNat 8 data.length
      engIdx := 0, engRem := BitVec.ofNat 8 data.length, engBuf := buf
      engErr := .none, engDone := false, engStopreq := false, pOwe := .ackW
      trace := s.trace ++ [.start (a.setWidth 8 <<< 1)] }

/-- From `s`, the engine is armed for a read of `n` bytes from `a`, and the state is then `t` (R83). -/
def armsRead (s : State) (a : Addr7) (n : Byte) (t : State) : Prop :=
  t = { s with
    engState := .addr, engDir := .r, engAddr := a, engLen := n, engIdx := 0, engRem := n
    engErr := .none, engDone := false, engStopreq := false, pOwe := .ackR
    trace := s.trace ++ [.start ((a.setWidth 8 <<< 1) ||| 1)] }

/-! ### What a step adds to the trace -/

/-- The frames among trace items. -/
def sentFrames (items : List TraceItem) : List (List Byte) :=
  items.filterMap fun
    | .send _ bytes => some bytes
    | .start _ => none
    | .tx _ => none
    | .stopReq => none
    | .stopDone => none
    | .evTxe => none
    | .evRxf _ => none
    | .evNack => none
    | .evTimeout => none
    | .dropTx _ => none
    | .dropRx _ => none

/-- Run instructions one after another, as long as each answers a next state. -/
def execAll : List Instr → State → Host.Outcome State Fault Refusal
  | [], s => .next s
  | i :: is, s =>
    match exec i s with
    | .next s' => execAll is s'
    | .fault f => .fault f
    | .refused r => .refused r

end Sys2Proof.Machine
end

