-- ==== Sys2Proof/Certificates/Slice0/Obligations.lean ====
section
/-! DEFINITION. The statements for the provers. Each docstring names the rule of spec/ a statement formalises; 'log n' is
notes/assumptions/n.md. -/
open Sys2Proof Sys2Proof.Machine

/-! ### Encodings -/

/-- Decoding the encoding of a well-formed instruction gives it back, with every operand at every value the encoding
admits (R58 to R75), whatever the parameters. The argument lines of an interface operation are the model's (log 5), and so are
the numbers that stand for the handles of CHANNEL_ID (log 2). -/
def Obligations.DecodeOfEncodeIsTheInstruction : Prop :=
  ∀ (p : Params) (i : Instr), i.wellFormed p = true → decode p (encode i) = .ok i

/-- Every frame that CODEC_DECODE accepts is a well-formed frame command, and encoding the command gives the frame's bytes
back: no bit of a frame is dropped (R74: 'Every decoded frame matches exactly one row first'). Presented as it stands, with
whatever bytes after its first `L` (R72), it decodes to that command; bytes that CODEC_DECODE rejects decode to none, and the
decoder says they are Truncated (R59, R105). -/
def Obligations.AcceptedFrameIsACommand : Prop :=
  ∀ (p : Params) (b : List Byte),
    (∀ f, codecDecode b = some f →
      ∃ c : FrameCmd, decodeCommand p.supportedGroups f = .ok c ∧ c.wellFormed p.supportedGroups = true ∧
        encodeCommand c = frameBytes b ∧ decode p (.frame b) = .ok c.toInstr) ∧
    (codecDecode b = none → decode p (.frame b) = .error .truncated)

/-- The four laws of R106. -/
def Obligations.CodecLaws : Prop :=
  (∀ (maxFrame : Nat) (op : OpType) (seq corr : Byte) (payload : List Byte),
    maxFrame ≤ 31 → payload.length + 3 ≤ maxFrame →
      ∃ bytes, codecEncode maxFrame op seq corr payload = some bytes ∧
        codecDecode bytes = some { opType := op, seq := seq, corr := corr, payload := payload }) ∧
  (∀ (op : OpType) (seq corr : Byte) (payload : List Byte),
    (payload.length ≤ 28 → ∃ bytes f, codecEncode 31 op seq corr payload = some bytes ∧ codecDecode bytes = some f ∧
      codecEncode 31 f.opType f.seq f.corr f.payload = some bytes) ∧
    (payload.length = 29 → codecEncode 31 op seq corr payload = none)) ∧
  (∀ (b : List Byte) (f : Frame), codecDecode b = some f →
    codecEncode 31 f.opType f.seq f.corr f.payload = some (frameBytes b)) ∧
  (∀ b : List Byte, (codecDecode b).isSome = true ↔
    3 ≤ b.length ∧ ∃ b0, b.head? = some b0 ∧ 3 ≤ (b0 &&& 0x1F).toNat ∧ (b0 &&& 0x1F).toNat ≤ b.length)

/-- A few words written out from R58, R74 and R75 decode to the instructions they stand for; the frame of S5, with a length above
the bytes there, decodes to none (R59). -/
def Obligations.WordsDecodeAsWritten : Prop :=
  decode Params.default (.frame [0x06, 0x07, 0xFF, 0xD0, 0x02, 0x10]) = .ok (.i2cRead 0x07 0xFF 0x50 0 2 [0x10]) ∧
  decode Params.default (.frame [0x06, 0x01, 0xFF, 0x3C, 0xAA, 0xBB]) = .ok (.i2cWrite 0x01 0xFF 0x3C [0xAA, 0xBB]) ∧
  decode Params.default (.frame [0x24, 0x09, 0xFF, 0x82]) = .ok (.gpioRead 0x09 0xFF 1 0 2 []) ∧
  decode Params.default (.frame [0x24, 0x0A, 0xFF, 0x83]) = .ok (.gpioBadgroup 0x0A 0xFF 1 0 3 []) ∧
  decode Params.default (.frame [0x43, 0x05, 0xFF]) = .ok (.rsvdOp2 0x05 0xFF []) ∧
  decode Params.default (.ifc { opc := 0x3 }) = .ok .evTxe ∧
  decode Params.default (.ifc { opc := 0x4, arg := 0x5A }) = .ok (.evRxf 0x5A) ∧
  decode Params.default (.ifc { opc := 0x0 }) = .error .reservedOpc ∧
  decode Params.default (.frame [0x05, 0x00, 0xFF, 0x00]) = .error .truncated

/-- CODEC_ENCODE and CODEC_DECODE in every state: they hand back the bytes of R104 or EncodeOverflow, and the frame of R105 or
Truncated, and change nothing else (R103). That the value goes to `returns` is the model's record (log 16), and that they
run in every phase of SEQ the model's reading of R103 (log 24). -/
def Obligations.CodecHandsBackItsValue : Prop :=
  (∀ (op : OpType) (seq corr : Byte) (payload : List Byte) (s : State),
    exec (.codecEncode op seq corr payload) s = .next { s with
      returns := s.returns ++ [
        if payload.length + 3 > s.params.maxFrame then .encodeOverflow payload.length
        else .encoded (((op.setWidth 8 <<< 5) ||| BitVec.ofNat 8 (payload.length + 3)) :: seq :: corr :: payload)] }) ∧
  (∀ (b : List Byte) (s : State), b.length < 3 →
    exec (.codecDecode b) s = .next { s with returns := s.returns ++ [.truncated] }) ∧
  (∀ (b0 seq corr : Byte) (rest : List Byte) (s : State),
    exec (.codecDecode (b0 :: seq :: corr :: rest)) s = .next { s with
      returns := s.returns ++ [
        if (b0 &&& 0x1F).toNat < 3 then .truncated
        else if (b0 &&& 0x1F).toNat > rest.length + 3 then .truncated
        else .decoded { opType := (b0 >>> 5).setWidth 3, seq := seq, corr := corr,
                        payload := rest.take ((b0 &&& 0x1F).toNat - 3) }] })

/-! ### The peripheral -/

/-- A conforming peripheral never produces an unexpected event (R93), for its steps are taken only where R96 to R98 enable them:
from a state of the invariant in which an idle engine is owed nothing, a step that injects no event leaves `eng_unexp` as it
is, and again an idle engine is owed nothing. Three things are the model's choices: the agents' choices are a list (log 8); a
step that is not enabled changes nothing (log 10); and a TIMEOUT in IDLE is no step, and so sets no `eng_unexp`, by R94 read
against R128 and R100 (log 12). -/
def Obligations.ConformingPeripheralIsNeverUnexpected : Prop :=
  ∀ s t : State, s.Inv → s.oweOk → s.conforming → step s = .next t →
    t.engUnexp = s.engUnexp ∧ t.oweOk

/-! ### The step -/

/-- When the choice at the head of `inputs` is an instruction's encoding, the step runs that instruction, with the choice
taken off the list (log 8). -/
def Obligations.StepRunsTheDecodedInstruction : Prop :=
  ∀ (s : State) (e : Encoded) (rest : List Slot) (i : Instr),
    s.fault = [] → s.inputs = .port e :: rest → decode s.params e = .ok i →
      step s = exec i { s with inputs := rest }

/-- A faulted state is never left: no step answers a next state there (R11, R37, R126: a fault is never cleared, and a faulted
state is stuck). That every agent's step then stops, and that it answers the fault entered first, is the model's reading
(log 13). -/
def Obligations.FaultedStateIsNeverLeft : Prop :=
  ∀ (s : State) (f : Fault) (fs : List Fault), s.fault = f :: fs → step s = .fault f

/-- The other choices of the model's input list (log 8). The reserved code 0x0 has no effect (R75, I17; log 18), nor has an
operation with a channel argument that is no handle of CHANNEL_ID (R7; log 2). PINS drives the register that reads of PINREG
return (R30; log 17). Bytes that CODEC_DECODE rejects go to FRAME_DELIVER, on a channel it ignores, and in READY they are dropped
silently (R59, R73, R105, R109; log 7). A step of PERIPH is taken where R96 to R99 enable it, and elsewhere there is no step
(log 10). -/
def Obligations.OtherChoicesOfTheInputList : Prop :=
  ∀ (s : State) (rest : List Slot), s.fault = [] →
    let s' := { s with inputs := rest }
    (∀ w : IfcWord, s.inputs = .port (.ifc w) :: rest → w.opc = 0 → step s = .next s') ∧
    (∀ (w : IfcWord) (n : Nat), s.inputs = .port (.ifc w) :: rest → w.opc = 0x8 ∨ w.opc = 0xA →
      s.params.channelIds = some n → n ≤ w.chan → step s = .next s') ∧
    (∀ v : Byte, s.inputs = .pins v :: rest → step s = .next { s' with pinReg := v }) ∧
    (∀ b : List Byte, s.inputs = .port (.frame b) :: rest → codecDecode b = none →
      step s = exec (.frameDeliver 0 b) s' ∧
      (s.seqPhase = .ready → s.held = [] →
        step s = .next { s' with trace := s.trace ++ [.dropRx .truncated] })) ∧
    (s.inputs = .periph .txe :: rest →
      step s = if s.pOwe = .ackW ∨ s.pOwe = .ackR then exec .evTxe s' else .next s') ∧
    (s.inputs = .periph .nack :: rest →
      step s = if s.pOwe = .ackW ∨ s.pOwe = .ackR then exec .evNack s' else .next s') ∧
    (∀ b : Byte, s.inputs = .periph (.rxf b) :: rest →
      step s = if s.pOwe = .rx then exec (.evRxf b) s' else .next s') ∧
    (s.inputs = .periph .stopdone :: rest →
      step s = if s.pStopPending = true ∧ s.pOwe = .none then exec .peStopdone s' else .next s')

/-- A SEQ operation asked for while SEQ is in another phase, or while an earlier one is still kept, is kept in arrival order
and nothing else happens (R32, R109, R134; log 9). -/
def Obligations.SeqOperationsWaitTheirTurn : Prop :=
  ∀ (s : State), (s.seqPhase ≠ .ready ∨ s.held ≠ []) →
    (∀ c : FrameCmd, exec c.toInstr s = .next { s with held := s.held ++ [c.toInstr] }) ∧
    (∀ ch b, exec (.frameDeliver ch b) s = .next { s with held := s.held ++ [.frameDeliver ch b] }) ∧
    exec .gpioPoll s = .next { s with held := s.held ++ [.gpioPoll] } ∧
    (∀ v, exec (.gpioChange v) s = .next { s with held := s.held ++ [.gpioChange v] }) ∧
    (∀ op corr p, exec (.dispSend op corr p) s = .next { s with held := s.held ++ [.dispSend op corr p] }) ∧
    (s.engState = .idle →
      (∀ a data, exec (.engWrite a data) s = .next { s with held := s.held ++ [.engWrite a data] }) ∧
      (∀ a n, exec (.engRead a n) s = .next { s with held := s.held ++ [.engRead a n] }))

/-- In READY, SEQ's step runs the first operation kept for it, and the later ones stay kept in order (R109; log 9), whether SEQ
is chosen or no choice is to come (log 8). -/
def Obligations.SeqRunsTheFirstKeptOperation : Prop :=
  ∀ (s t : State) (i : Instr) (later : List Instr) (rest : List Slot),
    s.fault = [] → s.seqIsNext rest → s.seqPhase = .ready → s.held = i :: later →
    exec i { s with inputs := rest, held := [] } = .next t →
      step s = .next { t with held := t.held ++ later }

/-- While `eng_done` is 0, SEQ stays in its wait; while a STOP is pending, it stays in STOP_HOLD (R81, R131). That a step of SEQ
is then answered with the state as it is, rather than there being none, is log 10; the wait of a direct call, `callWait`, is
the model's own (log 15), and so is that SEQ moves when no choice is to come (log 8). -/
def Obligations.SeqIsHeldInItsWaits : Prop :=
  ∀ (s : State) (rest : List Slot), s.fault = [] → s.seqIsNext rest →
    ((s.seqPhase = .wWait ∨ s.seqPhase = .selWait ∨ s.seqPhase = .rdWait ∨ s.seqPhase = .callWait) ∧
        s.engDone = false ∨ s.seqPhase = .stopHold ∧ s.pStopPending = true) →
      step s = .next { s with inputs := rest }

/-! ### Reset -/

/-- The values R140 gives. It gives the channel and the working context none, and they are not part of this statement, nor are
the model's own fields. -/
def Obligations.ResetValues : Prop :=
  ∀ p : Params, let s := State.resetWith p
    State.reset = State.resetWith Params.default ∧
    s.engState = .idle ∧ s.engDir = .w ∧ s.engAddr = 0 ∧ s.engLen = 0 ∧ s.engIdx = 0 ∧ s.engRem = 0 ∧
    s.engErr = .none ∧ s.engDone = false ∧ s.engStopreq = false ∧ s.engUnexp = false ∧
    (∀ i < 255, memRead s.engBuf i = .error .unwrittenBuf) ∧
    s.pOwe = .none ∧ s.pStopPending = false ∧ s.ownseq = 0 ∧ s.linkConnected = false ∧
    s.gpioLast = p.gpioSnapshotInit ∧ Params.default.gpioSnapshotInit = 0x00 ∧
    s.seqPhase = .ready ∧ s.fault = [] ∧ s.trace = []

/-- The invariant holds after reset, for all legal parameters (R7, R140), nothing is in progress, and an idle engine is owed
nothing. That the channel, to which R140 gives no value, is one of CHANNEL_ID there is the model's choice (log 2, 4). -/
def Obligations.ResetMeetsTheInvariant : Prop :=
  ∀ p : Params, p.legal = true → (State.resetWith p).Inv ∧ (State.resetWith p).quiescent ∧ (State.resetWith p).oweOk

/-! ### The whole machine -/

/-- Every step keeps the invariant, whatever the agents choose, injected events included (R19, R25, R27, R29, R34, R87, R90, R91).
That an event the peripheral does not owe leaves `p_owe` alone is the model's choice (log 11), and so are the numbers of the
handles of CHANNEL_ID (log 2) and the kept operations (log 9). -/
def Obligations.EveryStepKeepsTheInvariant : Prop :=
  ∀ s t : State, s.Inv → step s = .next t → t.Inv

/-- The faults of R126 are reached only by a call made directly on the engine or by a command no frame holds: from a state
of the invariant with no fault, any other step enters none (R12, R126). -/
def Obligations.HarmlessStepsEnterNoFault : Prop :=
  ∀ s t : State, s.Inv → s.faultFree → s.calm → step s = .next t → t.faultFree

/-- No step clears `eng_unexp` (R24), takes a fault away (R37), or alters what `trace` (R38) already holds. That no step changes a
parameter is log 1: they stand in the state, where nothing writes them; `returns`, which also only grows, is the model's own
record (log 16). -/
def Obligations.RecordsOnlyGrow : Prop :=
  ∀ s t : State, step s = .next t →
    t.params = s.params ∧ (s.engUnexp = true → t.engUnexp = true) ∧ s.fault <+: t.fault ∧
      s.trace <+: t.trace ∧ s.returns <+: t.returns

/-- The interrupt context and the peripheral's steps touch nothing but the engine's and the peripheral's state and the trace
(R35, R129, R145), but for a fault they enter. -/
def Obligations.InterruptsTouchOnlyTheEngine : Prop :=
  ∀ (i : Instr) (s t : State),
    (i = .evTxe ∨ (∃ b, i = .evRxf b) ∨ i = .evNack ∨ i = .evTimeout ∨ i = .peStopdone) → exec i s = .next t →
      t.ownseq = s.ownseq ∧ t.linkConnected = s.linkConnected ∧ t.linkChannel = s.linkChannel ∧
      t.gpioLast = s.gpioLast ∧ t.seqPhase = s.seqPhase ∧ t.dispCtx = s.dispCtx ∧ t.held = s.held ∧
      t.inputs = s.inputs ∧ t.returns = s.returns ∧ t.pinReg = s.pinReg ∧ t.freeCount = s.freeCount ∧
      t.engDir = s.engDir ∧ t.engAddr = s.engAddr ∧ t.engLen = s.engLen

/-- `gpio_last` is written by GPIO_POLL alone (R29, R124), LinkState by LINK_OPEN and LINK_CLOSE alone (R28): whatever a step does,
an instruction presented, one kept for SEQ, SEQ's steps inside an operation, PINS or PERIPH; and whatever instruction runs. -/
def Obligations.OneWriterEach : Prop :=
  (∀ s t : State, step s = .next t →
    (s.performs ≠ some .gpioPoll → t.gpioLast = s.gpioLast) ∧
    ((∀ ch, s.performs ≠ some (.linkOpen ch)) → s.performs ≠ some .linkClose →
      t.linkConnected = s.linkConnected ∧ t.linkChannel = s.linkChannel)) ∧
  (∀ (i : Instr) (s t : State), exec i s = .next t →
    (i ≠ .gpioPoll → t.gpioLast = s.gpioLast) ∧
    ((∀ ch, i ≠ .linkOpen ch) → i ≠ .linkClose → t.linkConnected = s.linkConnected ∧ t.linkChannel = s.linkChannel))

/-- No step issues a START while a STOP is still to reach the bus (R81, R143). -/
def Obligations.NoStartWhileStopPending : Prop :=
  ∀ s t : State, step s = .next t → s.pStopPending = true →
    ∃ items, t.trace = s.trace ++ items ∧ ∀ a, TraceItem.start a ∉ items

/-- A step sends at most one frame, and only while connected; the frame carries `ownseq`, which then counts on modulo 255,
and with no frame sent `ownseq` stays (R27, R117, R118, R146). -/
def Obligations.OwnseqCountsTheFramesSent : Prop :=
  ∀ s t : State, step s = .next t →
    ∃ items, t.trace = s.trace ++ items ∧
      (sentFrames items = [] ∧ t.ownseq = s.ownseq ∨
        ∃ bytes, sentFrames items = [bytes] ∧ s.linkConnected = true ∧ bytes[1]? = some s.ownseq ∧
          t.ownseq = BitVec.ofNat 8 ((s.ownseq.toNat + 1) % 255))

/-- In a transaction whose STOP has been requested no step requests it again (R92: 'a second STOP is never requested in one
transaction'). -/
def Obligations.StopIsRequestedOnce : Prop :=
  ∀ s t : State, s.Inv → s.engState ≠ .idle → s.engStopreq = true → step s = .next t →
    ∃ items, t.trace = s.trace ++ items ∧ TraceItem.stopReq ∉ items

/-- A write whose bytes are all acknowledged (R78, R82, R84, R86, R87, R88): the address, the bytes in order (R47), then STOP;
the call returns `Ok(())`. SEQ's wait for a direct call and the record of its value are the model's (log 15, 16). -/
def Obligations.WriteTransactionSucceeds : Prop :=
  ∀ (a : Addr7) (data : List Byte) (s : State),
    s.engState = .idle → s.seqPhase = .ready → s.held = [] → s.pStopPending = false →
    0 < data.length → data.length ≤ 255 →
      ∃ t u, execAll (.engWrite a data :: List.replicate (data.length + 1) .evTxe) s = .next t ∧
        t.trace = s.trace ++ .start (a.setWidth 8 <<< 1) ::
          (data.flatMap (fun d => [TraceItem.evTxe, .tx d]) ++ [.evTxe, .stopReq]) ∧
        t.engState = .idle ∧ t.engRem = 0 ∧ t.pStopPending = true ∧ t.pOwe = .none ∧
        seqStep t = .next u ∧ u.returns = s.returns ++ [.call .okWrite] ∧ u.seqPhase = .ready

/-- A write of which byte number `k` is not acknowledged, byte 0 being the address (R92): the abort, STOP requested, `Err(NoAck)`,
and `eng_rem` counts the bytes not transferred (R19, R125). SEQ's wait and the record are the model's (log 15, 16). -/
def Obligations.WriteTransactionNacked : Prop :=
  ∀ (a : Addr7) (data : List Byte) (k : Nat) (s : State),
    s.engState = .idle → s.seqPhase = .ready → s.held = [] → s.pStopPending = false →
    0 < data.length → data.length ≤ 255 → k ≤ data.length →
      ∃ t u, execAll (.engWrite a data :: (List.replicate k .evTxe ++ [.evNack])) s = .next t ∧
        t.trace = s.trace ++ .start (a.setWidth 8 <<< 1) ::
          ((data.take k).flatMap (fun d => [TraceItem.evTxe, .tx d]) ++ [.evNack, .stopReq]) ∧
        t.engState = .idle ∧ t.engErr = .noack ∧
        t.engRem.toNat = (if k = 0 then data.length else data.length - k + 1) ∧ t.pOwe = .none ∧
        seqStep t = .next u ∧ u.returns = s.returns ++ [.call (.err .noAck)] ∧ u.seqPhase = .ready

/-- A read that the target answers (R83, R84, R86, R90, R91, R98): the STOP is requested before the last byte and after all
the others (R142), and the call returns exactly the bytes received, in order (R47). SEQ's wait and the record are the model's
(log 15, 16). -/
def Obligations.ReadTransactionSucceeds : Prop :=
  ∀ (a : Addr7) (n : Byte) (bytes : List Byte) (s : State),
    s.engState = .idle → s.seqPhase = .ready → s.held = [] → s.pStopPending = false →
    0 < bytes.length → n.toNat = bytes.length →
      ∃ t u, execAll (.engRead a n :: .evTxe :: bytes.map .evRxf) s = .next t ∧
        t.trace = s.trace ++ .start ((a.setWidth 8 <<< 1) ||| 1) :: .evTxe ::
          (bytes.dropLast.map .evRxf ++ .stopReq :: (bytes.drop (bytes.length - 1)).map .evRxf) ∧
        t.engState = .idle ∧ t.engRem = 0 ∧ t.pStopPending = true ∧ t.pOwe = .none ∧
        seqStep t = .next u ∧ u.returns = s.returns ++ [.call (.okRead bytes)] ∧ u.seqPhase = .ready

/-! ### The frame commands -/

/-- I2C_EMPTY, GPIO_EMPTY and I2C_READ_SHORT: dropped as malformed; no bus activity, no send (R111). -/
def Obligations.MalformedFramesAreDropped : Prop :=
  ∀ (seq corr : Byte) (a : Addr7) (s : State), s.seqPhase = .ready → s.held = [] →
    exec (.i2cEmpty seq corr) s = .next { s with trace := s.trace ++ [.dropRx .malformed] } ∧
    exec (.gpioEmpty seq corr) s = .next { s with trace := s.trace ++ [.dropRx .malformed] } ∧
    exec (.i2cReadShort seq corr a) s = .next { s with trace := s.trace ++ [.dropRx .malformed] }

/-- RSVD_OP2 to RSVD_OP7: dropped silently, the payload not examined (R110). -/
def Obligations.ReservedOpTypesAreDropped : Prop :=
  ∀ (seq corr : Byte) (p : List Byte) (s : State), s.seqPhase = .ready → s.held = [] →
    ∀ i ∈ [Instr.rsvdOp2 seq corr p, .rsvdOp3 seq corr p, .rsvdOp4 seq corr p,
           .rsvdOp5 seq corr p, .rsvdOp6 seq corr p, .rsvdOp7 seq corr p],
      exec i s = .next { s with trace := s.trace ++ [.dropRx .unknownOpType] }

/-- I2C_WRITE with data arms the engine for it and waits in W_WAIT (R82, R112). That the fields of `disp_ctx` which R112 does not
list stay as they were is the model's choice (log 21). -/
def Obligations.I2cWriteArmsTheEngine : Prop :=
  ∀ (seq corr : Byte) (a : Addr7) (data : List Byte) (s : State),
    s.seqPhase = .ready → s.held = [] → s.engState = .idle → s.pStopPending = false →
    0 < data.length → data.length ≤ 255 →
      ∃ t, exec (.i2cWrite seq corr a data) s = .next t ∧
        armsWrite { s with seqPhase := .wWait
                           dispCtx := { s.dispCtx with rseq := seq, addr := a, data := data } } a data t

/-- I2C_WRITE with no data performs no bus transaction and answers `[a, 0x00]` (R112), whatever STOP is pending. That the fields
of `disp_ctx` which R112 does not list stay as they were is the model's choice (log 21). -/
def Obligations.ZeroLengthWriteAnswersAtOnce : Prop :=
  ∀ (seq corr : Byte) (a : Addr7) (s : State), s.seqPhase = .ready → s.held = [] → s.engState = .idle →
    ∃ t, exec (.i2cWrite seq corr a []) s = .next { t with seqPhase := .ready } ∧
      sends { s with seqPhase := .wWait, dispCtx := { s.dispCtx with rseq := seq, addr := a, data := [] } }
        0 seq [a.setWidth 8, 0x00] t

/-- I2C_READ with select bytes arms the engine for the select write and waits in SEL_WAIT (R82, R113). That the fields of
`disp_ctx` which R113 does not list stay as they were is the model's choice (log 21). -/
def Obligations.I2cReadArmsTheSelectWrite : Prop :=
  ∀ (seq corr : Byte) (a : Addr7) (unused : BitVec 3) (rlen : BitVec 5) (sel : List Byte) (s : State),
    s.seqPhase = .ready → s.held = [] → s.engState = .idle → s.pStopPending = false →
    0 < sel.length → sel.length ≤ 255 →
      ∃ t, exec (.i2cRead seq corr a unused rlen sel) s = .next t ∧
        armsWrite { s with
          seqPhase := .selWait
          dispCtx := { s.dispCtx with rseq := seq, addr := a, sel := sel, rlen := rlen } } a sel t

/-- I2C_READ with no select bytes performs no write phase: it arms the read and waits in RD_WAIT, or, with a read length of
0, answers at once with count 0 (R113). That the fields of `disp_ctx` which R113 does not list stay as they were is the model's
choice (log 21). -/
def Obligations.I2cReadWithoutSelect : Prop :=
  ∀ (seq corr : Byte) (a : Addr7) (unused : BitVec 3) (rlen : BitVec 5) (s : State),
    s.seqPhase = .ready → s.held = [] → s.engState = .idle →
    let s' := { s with
      seqPhase := SeqPhase.rdWait
      dispCtx := { s.dispCtx with rseq := seq, addr := a, sel := [], rlen := rlen, wok := true } }
    (rlen ≠ 0 → s.pStopPending = false →
      ∃ t, exec (.i2cRead seq corr a unused rlen []) s = .next t ∧ armsRead s' a (rlen.setWidth 8) t) ∧
    (rlen = 0 →
      ∃ t, exec (.i2cRead seq corr a unused rlen []) s = .next { t with seqPhase := .ready } ∧
        sends s' 0 seq [a.setWidth 8 ||| 0x80, 0x00] t)

/-- GPIO_READ answers the group and the inverted masked pins, read afresh; the snapshot is not touched (R71, R114). -/
def Obligations.GpioReadAnswersThePins : Prop :=
  ∀ (seq corr : Byte) (isReq : BitVec 1) (unused : BitVec 2) (g : GroupId) (rest : List Byte) (s : State),
    s.seqPhase = .ready → s.held = [] →
      ∃ t, exec (.gpioRead seq corr isReq unused g rest) s = .next t ∧
        sends s 1 seq [g.setWidth 8, ~~~ (s.pinReg &&& s.params.pinMask) &&& s.params.pinMask] t

/-- GPIO_BADGROUP answers the group and the status 0x40, without the pins (R115). -/
def Obligations.GpioBadgroupAnswersTheError : Prop :=
  ∀ (seq corr : Byte) (isReq : BitVec 1) (unused : BitVec 2) (g : GroupId) (rest : List Byte) (s : State),
    s.seqPhase = .ready → s.held = [] →
      ∃ t, exec (.gpioBadgroup seq corr isReq unused g rest) s = .next t ∧
        sends s 1 seq [g.setWidth 8, 0x40] t

/-! ### SEQ's steps inside a command -/

/-- A call made while a STOP is pending is kept in STOP_HOLD and nothing reaches the bus (R81): for I2C_WRITE, for I2C_READ's
select write and read, for ENG_WRITE and for ENG_READ. The wait that follows a direct call, `callWait`, is the model's own
(log 15), and so is that the fields of `disp_ctx` not listed stay as they were (log 21). -/
def Obligations.CallsWaitForThePendingStop : Prop :=
  ∀ (s : State), s.seqPhase = .ready → s.held = [] → s.engState = .idle → s.pStopPending = true →
    (∀ seq corr a data, 0 < data.length → data.length ≤ 255 →
      exec (.i2cWrite seq corr a data) s = .next { s with
        seqPhase := .stopHold
        dispCtx := { s.dispCtx with rseq := seq, addr := a, data := data
                                    pending := .write a data, resume := .wWait } }) ∧
    (∀ seq corr a unused rlen sel, 0 < sel.length → sel.length ≤ 255 →
      exec (.i2cRead seq corr a unused rlen sel) s = .next { s with
        seqPhase := .stopHold
        dispCtx := { s.dispCtx with rseq := seq, addr := a, sel := sel, rlen := rlen
                                    pending := .write a sel, resume := .selWait } }) ∧
    (∀ seq corr a unused rlen, rlen ≠ 0 →
      exec (.i2cRead seq corr a unused rlen []) s = .next { s with
        seqPhase := .stopHold
        dispCtx := { s.dispCtx with rseq := seq, addr := a, sel := [], rlen := rlen, wok := true
                                    pending := .read a (rlen.setWidth 8), resume := .rdWait } }) ∧
    (∀ a data, 0 < data.length → data.length ≤ 255 →
      exec (.engWrite a data) s = .next { s with
        seqPhase := .stopHold
        dispCtx := { s.dispCtx with pending := .write a data, resume := .callWait } }) ∧
    (∀ a n, n ≠ 0 →
      exec (.engRead a n) s = .next { s with
        seqPhase := .stopHold
        dispCtx := { s.dispCtx with pending := .read a n, resume := .callWait } })

/-- Once the prior STOP is on the bus, SEQ's step leaves STOP_HOLD and arms the call it kept (R81, R82, R83). Only calls that move
a byte are kept there (R17). That SEQ moves when no choice is to come is the model's (log 8). -/
def Obligations.StopHoldEndsByArming : Prop :=
  ∀ (s : State) (rest : List Slot), s.fault = [] → s.seqIsNext rest → s.seqPhase = .stopHold →
    s.pStopPending = false →
    let s' := { s with inputs := rest, seqPhase := s.dispCtx.resume }
    (∀ a data, s.dispCtx.pending = .write a data → 0 < data.length → data.length ≤ 255 →
      ∃ t, step s = .next t ∧ armsWrite s' a data t) ∧
    (∀ a n, s.dispCtx.pending = .read a n → n ≠ 0 → ∃ t, step s = .next t ∧ armsRead s' a n t)

/-- When its call has ended, a write request is answered `[a, status] ++ data`, the status 0x40 after a bus error and 0x00
else (R67, R112), and SEQ is READY. That SEQ moves when no choice is to come is the model's (log 8). -/
def Obligations.WriteRequestIsAnswered : Prop :=
  ∀ (s : State) (rest : List Slot), s.fault = [] → s.seqIsNext rest → s.seqPhase = .wWait →
    s.engDone = true → s.engDir = .w →
      ∃ t, step s = .next { t with seqPhase := .ready } ∧
        sends { s with inputs := rest } 0 s.dispCtx.rseq
          (s.dispCtx.addr.setWidth 8 :: (if s.engErr = .none then 0x00 else 0x40) :: s.dispCtx.data) t

/-- When the select write has ended, well or not, the read phase follows (R113, D17), behind the STOP gate (R81). With a read
length of 0 it performs no bus transaction, and the request is answered at once with count 0 and the select bytes, the error
bit set after a failed select write (R67, R68, R113). That the other fields of `disp_ctx` stay is log 21, that SEQ moves
when no choice is to come log 8. -/
def Obligations.ReadPhaseFollowsTheSelect : Prop :=
  ∀ (s : State) (rest : List Slot), s.fault = [] → s.seqIsNext rest → s.seqPhase = .selWait →
    s.engDone = true → s.engState = .idle → s.engDir = .w →
    let ctx := { s.dispCtx with wok := decide (s.engErr = .none) }
    let s' := { s with inputs := rest, seqPhase := SeqPhase.rdWait, dispCtx := ctx }
    (s.dispCtx.rlen ≠ 0 → s.pStopPending = false →
      ∃ t, step s = .next t ∧ armsRead s' s.dispCtx.addr (s.dispCtx.rlen.setWidth 8) t) ∧
    (s.dispCtx.rlen ≠ 0 → s.pStopPending = true →
      step s = .next { s' with
        seqPhase := .stopHold
        dispCtx := { ctx with pending := .read s.dispCtx.addr (s.dispCtx.rlen.setWidth 8), resume := .rdWait } }) ∧
    (s.dispCtx.rlen = 0 →
      ∃ t, step s = .next { t with seqPhase := .ready } ∧
        sends s' 0 s.dispCtx.rseq
          ((s.dispCtx.addr.setWidth 8 ||| 0x80) :: (if s.engErr = .none then 0x00 else 0x40) :: s.dispCtx.sel) t)

/-- When the read has ended, the read request is answered (R67, R68, R113): with the bytes read and their count, or with
the error bit and no bytes; a failed select write sets the error bit too. A byte below `eng_len` that nothing has written enters
UNWRITTEN_BUF (R20, R84), and nothing else happens (log 13, 14). That SEQ moves when no choice is to come is the model's
(log 8). -/
def Obligations.ReadRequestIsAnswered : Prop :=
  ∀ (s : State) (rest : List Slot), s.fault = [] → s.seqIsNext rest →
    s.seqPhase = .rdWait → s.engDone = true → s.engDir = .r →
    (∀ bytes : List Byte,
      (s.engErr = .none → bytes.length = s.engLen.toNat ∧ ∀ j < s.engLen.toNat, s.engBuf.get j = bytes[j]?) →
      ∃ t, step s = .next { t with seqPhase := .ready } ∧
        sends { s with inputs := rest } 0 s.dispCtx.rseq
          ((s.dispCtx.addr.setWidth 8 ||| 0x80) ::
            ((if s.dispCtx.wok = true ∧ s.engErr = .none then 0x00 else 0x40) |||
              (if s.engErr = .none then s.dispCtx.rlen.setWidth 8 else 0)) ::
            (s.dispCtx.sel ++ if s.engErr = .none then bytes else [])) t) ∧
    (s.engErr = .none → (∃ j < s.engLen.toNat, s.engBuf.get j = none) →
      step s = .next { s with inputs := rest, fault := [.unwrittenBuf] })

/-! ### The engine's caller operations -/

/-- ENG_WRITE with data arms the engine (R82); that SEQ then waits in `callWait` is the model's (log 15). -/
def Obligations.EngWriteArmsTheEngine : Prop :=
  ∀ (a : Addr7) (data : List Byte) (s : State),
    s.engState = .idle → s.seqPhase = .ready → s.held = [] → s.pStopPending = false →
    0 < data.length → data.length ≤ 255 →
      ∃ t, exec (.engWrite a data) s = .next t ∧ armsWrite { s with seqPhase := .callWait } a data t

/-- ENG_READ of at least one byte arms the engine (R83; log 15). -/
def Obligations.EngReadArmsTheEngine : Prop :=
  ∀ (a : Addr7) (n : Byte) (s : State),
    s.engState = .idle → s.seqPhase = .ready → s.held = [] → s.pStopPending = false → n ≠ 0 →
      ∃ t, exec (.engRead a n) s = .next t ∧ armsRead { s with seqPhase := .callWait } a n t

/-- A call of length 0 returns at once, even with a STOP pending; no bus activity, no state written (R82, R83; log 16). -/
def Obligations.ZeroLengthCallReturnsAtOnce : Prop :=
  ∀ (a : Addr7) (s : State), s.engState = .idle → s.seqPhase = .ready → s.held = [] →
    exec (.engWrite a []) s = .next { s with returns := s.returns ++ [.call .okWrite] } ∧
    exec (.engRead a 0) s = .next { s with returns := s.returns ++ [.call (.okRead [])] }

/-- A call to a busy engine enters the fault ENGINE_BUSY and changes nothing else (R80). -/
def Obligations.BusyEngineRefusesCalls : Prop :=
  ∀ (a : Addr7) (data : List Byte) (n : Byte) (s : State), s.engState ≠ .idle →
    let fault := if Fault.engineBusy ∈ s.fault then s.fault else s.fault ++ [.engineBusy]
    exec (.engWrite a data) s = .next { s with fault := fault } ∧
    exec (.engRead a n) s = .next { s with fault := fault }

/-- A write longer than MAX_XFER enters the fault XFER_TOO_LONG and nothing else changes (R82, R126; log 13): for ENG_WRITE, and
for an I2C_WRITE or I2C_READ that no frame can hold. -/
def Obligations.TooLongWriteFaults : Prop :=
  ∀ (a : Addr7) (data : List Byte) (s : State),
    s.engState = .idle → s.seqPhase = .ready → s.held = [] → data.length > 255 →
      let t := { s with fault := if Fault.xferTooLong ∈ s.fault then s.fault else s.fault ++ [.xferTooLong] }
      exec (.engWrite a data) s = .next t ∧
      (∀ seq corr, exec (.i2cWrite seq corr a data) s = .next t) ∧
      (∀ seq corr unused rlen, exec (.i2cRead seq corr a unused rlen data) s = .next t)

/-- What a call returns once `eng_done` is 1 (R84), and SEQ is READY again (log 15, 16). A byte of a good read below `eng_len` that
nothing has written enters UNWRITTEN_BUF (R20, R84), and nothing else happens (log 13, 14). That SEQ moves when no choice is to
come is the model's (log 8). -/
def Obligations.CallReturnsItsResult : Prop :=
  ∀ (s : State) (rest : List Slot), s.fault = [] → s.seqIsNext rest →
    s.seqPhase = .callWait → s.engDone = true →
    (∀ bytes : List Byte,
      (s.engErr = .none → s.engDir = .r →
        bytes.length = s.engLen.toNat ∧ ∀ j < s.engLen.toNat, s.engBuf.get j = bytes[j]?) →
      step s = .next { s with
        inputs := rest, seqPhase := .ready
        returns := s.returns ++ [.call
          (match s.engErr with
            | .noack => .err .noAck
            | .timeout => .err .timeout
            | .none => match s.engDir with | .w => .okWrite | .r => .okRead bytes)] }) ∧
    (s.engErr = .none → s.engDir = .r → (∃ j < s.engLen.toNat, s.engBuf.get j = none) →
      step s = .next { s with inputs := rest, fault := [.unwrittenBuf] })

/-! ### The events -/

/-- EV_TXE in ADDR (R86). After an acknowledged read address byte reception starts (R96); what becomes of `p_owe` when the
peripheral owed no such acknowledge is not part of this statement. -/
def Obligations.TxeEndsTheAddressPhase : Prop :=
  ∀ (s : State), s.engState = .addr →
    (∀ b, s.engDir = .w → s.engBuf.get 0 = some b →
      exec .evTxe s = .next { s with
        engIdx := 1, engState := if s.engLen = 1 then .compl else .xfer, pOwe := .ackW
        trace := s.trace ++ [.evTxe, .tx b] }) ∧
    (s.engDir = .r → s.engLen = 1 →
      ∃ o, (s.pOwe = .ackR → o = .rx) ∧
        exec .evTxe s = .next { s with
          engState := .compl, engStopreq := true, pStopPending := true, pOwe := o
          trace := s.trace ++ [.evTxe, .stopReq] }) ∧
    (s.engDir = .r → s.engLen ≠ 1 →
      ∃ o, (s.pOwe = .ackR → o = .rx) ∧
        exec .evTxe s = .next { s with engState := .xfer, pOwe := o, trace := s.trace ++ [.evTxe] })

/-- EV_TXE in XFER on a write (R87): the next byte is loaded. Where no byte has been written at `eng_idx`, or at 0 in ADDR, the
step enters UNWRITTEN_BUF (R20), and beyond the buffer BUF_RANGE (R45), and does nothing else (log 13, 14). -/
def Obligations.TxeLoadsTheNextByte : Prop :=
  ∀ (s : State), s.engDir = .w →
    (∀ b, s.engState = .xfer → s.engIdx.toNat < 255 → s.engBuf.get s.engIdx.toNat = some b →
      exec .evTxe s = .next { s with
        engRem := s.engRem - 1, engIdx := s.engIdx + 1
        engState := if s.engIdx + 1 = s.engLen then .compl else .xfer
        pOwe := .ackW, trace := s.trace ++ [.evTxe, .tx b] }) ∧
    (s.engState = .xfer → s.engIdx.toNat < 255 → s.engBuf.get s.engIdx.toNat = none → s.fault = [] →
      exec .evTxe s = .next { s with fault := [.unwrittenBuf] }) ∧
    (s.engState = .addr → s.engBuf.get 0 = none → s.fault = [] →
      exec .evTxe s = .next { s with fault := [.unwrittenBuf] }) ∧
    (s.engState = .xfer → s.engIdx.toNat = 255 → s.fault = [] →
      exec .evTxe s = .next { s with fault := [.bufRange] })

/-- EV_TXE in COMPL on a write (R88): nothing more is owed (R96). -/
def Obligations.TxeFinishesTheWrite : Prop :=
  ∀ (s : State), s.engState = .compl → s.engDir = .w →
    ∃ o, (s.pOwe = .ackW → o = .none) ∧
      exec .evTxe s = .next { s with
        engRem := 0, engState := .idle, engDone := true, engStopreq := true, pStopPending := true, pOwe := o
        trace := s.trace ++ [.evTxe, .stopReq] }

/-- EV_RXF in XFER on a read (R90): the byte is stored at `eng_idx`, every other byte of the buffer stays, and STOP is
requested when exactly one byte remains; reception ends after a byte that came with a STOP pending (R98). Beyond the buffer
the step enters BUF_RANGE (R45) and does nothing else (log 13, 14). -/
def Obligations.RxfStoresTheByte : Prop :=
  ∀ (s : State) (b : Byte), s.engDir = .r →
    (s.engState = .xfer → s.engIdx.toNat < 255 →
      ∃ (buf : Memory) (o : Owe),
        (∀ j, buf.get j = if j = s.engIdx.toNat then some b else s.engBuf.get j) ∧
        (s.pOwe = .rx → o = if s.pStopPending then .none else .rx) ∧
        let s' := { s with engBuf := buf, engIdx := s.engIdx + 1, engRem := s.engRem - 1, pOwe := o }
        exec (.evRxf b) s = .next (
          if s.engRem - 1 = 1 then
            { s' with engState := .compl, engStopreq := true, pStopPending := true
                      trace := s.trace ++ [.evRxf b, .stopReq] }
          else { s' with trace := s.trace ++ [.evRxf b] })) ∧
    (s.engState = .xfer ∨ s.engState = .compl → s.engIdx.toNat = 255 → s.fault = [] →
      exec (.evRxf b) s = .next { s with fault := [.bufRange] })

/-- EV_RXF in COMPL on a read (R91): the last byte; no STOP is requested here; reception ends after a byte that came with a
STOP pending (R98). -/
def Obligations.RxfFinishesTheRead : Prop :=
  ∀ (s : State) (b : Byte), s.engState = .compl → s.engDir = .r → s.engIdx.toNat < 255 →
    ∃ (buf : Memory) (o : Owe),
      (∀ j, buf.get j = if j = s.engIdx.toNat then some b else s.engBuf.get j) ∧
      (s.pOwe = .rx → o = if s.pStopPending then .none else .rx) ∧
      exec (.evRxf b) s = .next { s with
        engBuf := buf, engIdx := s.engIdx + 1, engRem := 0, engState := .idle, engDone := true, pOwe := o
        trace := s.trace ++ [.evRxf b] }

/-- EV_NACK (R92): in IDLE unexpected (R93); in a transaction the abort, with STOP requested unless it already was, and
`eng_rem` kept. After the byte it was reported for, the peripheral owes nothing (R97). -/
def Obligations.NackAbortsTheTransaction : Prop :=
  ∀ (s : State),
    ∃ o, (s.pOwe = .ackW ∨ s.pOwe = .ackR → o = .none) ∧
      (s.engState ≠ .idle →
        exec .evNack s = .next { s with
          engErr := .noack, engState := .idle, engDone := true, pOwe := o
          engStopreq := true
          pStopPending := (if s.engStopreq = true then s.pStopPending else true)
          trace := s.trace ++ .evNack :: (if s.engStopreq = true then [] else [.stopReq]) }) ∧
      (s.engState = .idle →
        exec .evNack s = .next { s with engUnexp := true, pOwe := o, trace := s.trace ++ [.evNack] })

/-- An event the state and direction do not expect (R93): its item joins the trace and `eng_unexp` is set; no other engine
state changes, nothing is emitted, `eng_done` stays. The peripheral's side is as R96 to R98 give it for what it owed: after an
acknowledged address of a read reception starts, after another byte nothing is owed, and reception ends with a byte that came
with a STOP pending. What becomes of `p_owe` when it owed no such report is not part of this statement (log 11). -/
def Obligations.UnexpectedEventsOnlySetTheFlag : Prop :=
  ∀ (s : State) (b : Byte),
    (s.engState = .idle ∨ s.engDir = .r ∧ s.engState ≠ .addr →
      ∃ o, (s.pOwe = .ackR → o = .rx) ∧ (s.pOwe = .ackW → o = .none) ∧
        exec .evTxe s = .next { s with engUnexp := true, pOwe := o, trace := s.trace ++ [.evTxe] }) ∧
    (s.engState = .idle ∨ s.engState = .addr ∨ s.engDir = .w →
      ∃ o, (s.pOwe = .rx → o = if s.pStopPending then .none else .rx) ∧
        exec (.evRxf b) s = .next { s with engUnexp := true, pOwe := o, trace := s.trace ++ [.evRxf b] }) ∧
    (s.engState = .idle →
      ∃ o, (s.pOwe = .ackW ∨ s.pOwe = .ackR → o = .none) ∧
        exec .evNack s = .next { s with engUnexp := true, pOwe := o, trace := s.trace ++ [.evNack] })

/-- EV_TIMEOUT with the watchdog, in a transaction, aborts it with TIMEOUT; without the watchdog or with no transaction the
step does not exist, and nothing happens (R94; log 10). That a TIMEOUT in IDLE is no step, and so no unexpected event, is the
model's reading of R94 against R128 and R100 (log 12). -/
def Obligations.TimeoutAbortsTheTransaction : Prop :=
  ∀ (s : State),
    (s.params.watchdog = .enabled → s.engState ≠ .idle →
      exec .evTimeout s = .next { s with
        engErr := .timeout, engState := .idle, engDone := true, pOwe := .none
        engStopreq := true
        pStopPending := (if s.engStopreq = true then s.pStopPending else true)
        trace := s.trace ++ .evTimeout :: (if s.engStopreq = true then [] else [.stopReq]) }) ∧
    (s.params.watchdog = .none ∨ s.engState = .idle → exec .evTimeout s = .next s)

/-- PE_STOPDONE, enabled while a STOP is pending and nothing is owed (R99); else there is no such step and nothing happens
(log 10). -/
def Obligations.StopReachesTheBus : Prop :=
  ∀ (s : State),
    (s.pStopPending = true → s.pOwe = .none →
      exec .peStopdone s = .next { s with pStopPending := false, trace := s.trace ++ [.stopDone] }) ∧
    (s.pStopPending = false ∨ s.pOwe ≠ .none → exec .peStopdone s = .next s)

/-! ### Link, delivery, GPIO, sending -/

/-- LINK_OPEN in every phase, connected or not (R107). -/
def Obligations.LinkOpenConnects : Prop :=
  ∀ (ch : ChannelId) (s : State),
    exec (.linkOpen ch) s = .next { s with linkConnected := true, linkChannel := ch }

/-- LINK_CLOSE in every phase (R108): disconnected; while disconnected it changes nothing. What the channel then holds is
free, any value of CHANNEL_ID (I6; log 3), and the statement leaves it so. -/
def Obligations.LinkCloseDisconnects : Prop :=
  ∀ (s : State),
    (s.linkConnected = true →
      ∃ ch k, (s.params.channelIds ≠ some 0 → s.params.isChannel ch = true) ∧
        exec .linkClose s = .next { s with linkConnected := false, linkChannel := ch, freeCount := k }) ∧
    (s.linkConnected = false → exec .linkClose s = .next s)

/-- FRAME_DELIVER (R109), connected or not, whatever channel the bytes came on: bytes that CODEC_DECODE rejects are dropped
silently; a frame that it accepts runs as the command of its row. -/
def Obligations.DeliveryDropsOrRunsTheCommand : Prop :=
  ∀ (ch : ChannelId) (b : List Byte) (s : State), s.seqPhase = .ready → s.held = [] →
    (codecDecode b = none →
      exec (.frameDeliver ch b) s = .next { s with trace := s.trace ++ [.dropRx .truncated] }) ∧
    (∀ f, codecDecode b = some f →
      ∃ (c : FrameCmd) (t : State), decodeCommand s.params.supportedGroups f = .ok c ∧
        exec (.frameDeliver ch b) s = .next t ∧ exec c.toInstr s = .next t)

/-- GPIO_POLL (R121): on a difference the snapshot is updated and one unsolicited request is sent or dropped (R116); with
none, nothing happens. -/
def Obligations.PollReportsAChange : Prop :=
  ∀ (s : State), s.seqPhase = .ready → s.held = [] →
    let v := s.pinReg &&& s.params.pinMask
    (v ≠ s.gpioLast →
      ∃ t, exec .gpioPoll s = .next t ∧
        sends { s with gpioLast := v } 1 0xFF
          [if s.params.unsolSetReqBit then 0x82 else 0x02, ~~~ v &&& s.params.pinMask] t) ∧
    (v = s.gpioLast → exec .gpioPoll s = .next s)

/-- Two polls with no change of the pins between them: exactly one notification from the first, the unsolicited request of R116
sent or dropped as R117 says, if the pins differ from the snapshot, and none if they do not; and none from the second, which
changes nothing (R123). -/
def Obligations.PollIsIdempotent : Prop :=
  ∀ (s t : State), s.seqPhase = .ready → s.held = [] → exec .gpioPoll s = .next t →
    let v := s.pinReg &&& s.params.pinMask
    exec .gpioPoll t = .next t ∧
    (v ≠ s.gpioLast →
      sends { s with gpioLast := v } 1 0xFF
        [if s.params.unsolSetReqBit then 0x82 else 0x02, ~~~ v &&& s.params.pinMask] t) ∧
    (v = s.gpioLast → t = s)

/-- GPIO_CHANGE (R116). -/
def Obligations.GpioChangeSendsTheRequest : Prop :=
  ∀ (v : Byte) (s : State), s.seqPhase = .ready → s.held = [] →
    ∃ t, exec (.gpioChange v) s = .next t ∧
      sends s 1 0xFF [if s.params.unsolSetReqBit then 0x82 else 0x02, ~~~ v &&& s.params.pinMask] t

/-- DISP_SEND (R117): the frame is dropped if it does not fit or the link is down, with `ownseq` unchanged; else it is sent
whole on `link_channel` with the present `ownseq`, which then counts on modulo 255. -/
def Obligations.DispSendSendsOrDrops : Prop :=
  ∀ (op : OpType) (corr : Byte) (payload : List Byte) (s : State), s.seqPhase = .ready → s.held = [] →
    ∃ t, exec (.dispSend op corr payload) s = .next t ∧ sends s op corr payload t
end

