-- ==== Sys2Proof/Laws/Codec.lean ====
section
/-! SUPPORT. The fields of the bytes the encoder forms (R58, R63), and what CODEC_ENCODE and CODEC_DECODE can do (R104, R105). -/
namespace Sys2Proof

/-! ### The header byte -/

/-- The length field of a header is the length it was formed from, header included (R59). -/
theorem lengthField_headerByte (op : OpType) {n : Nat} (h : n ≤ 28) : lengthField (headerByte op n) = n + 3 := by
  have key : ∀ op : BitVec 3, ∀ n : Fin 29, lengthField (headerByte op n.val) = n.val + 3 := by decide
  exact key op ⟨n, by omega⟩

/-- The `op_type` of a header is the one it was formed from (R62). -/
theorem opTypeField_headerByte (op : OpType) {n : Nat} (h : n ≤ 28) : opTypeField (headerByte op n) = op := by
  have key : ∀ op : BitVec 3, ∀ n : Fin 29, opTypeField (headerByte op n.val) = op := by decide
  exact key op ⟨n, by omega⟩

/-- A header byte is formed from its two fields. -/
theorem headerByte_fields (b0 : Byte) (h : 3 ≤ lengthField b0) : headerByte (opTypeField b0) (lengthField b0 - 3) = b0 := by
  have key : ∀ b0 : BitVec 8, 3 ≤ lengthField b0 → headerByte (opTypeField b0) (lengthField b0 - 3) = b0 := by decide
  exact key b0 h

theorem lengthField_le (b0 : Byte) : lengthField b0 ≤ 31 := by
  have key : ∀ b0 : BitVec 8, lengthField b0 ≤ 31 := by decide
  exact key b0

/-- The length field is the value of the header's low five bits. -/
theorem lengthField_eq (b0 : Byte) : lengthField b0 = (b0 &&& 0x1F).toNat := rfl

/-- The `op_type` is the header shifted right by 5. -/
theorem opTypeField_eq (b0 : Byte) : opTypeField b0 = (b0 >>> 5).setWidth 3 := by
  have key : ∀ b0 : BitVec 8, opTypeField b0 = (b0 >>> 5).setWidth 3 := by decide
  exact key b0

/-! ### The fields of payload bytes -/

theorem directionField_append (d : BitVec 1) (a : Addr7) : directionField (d ++ a) = d := by
  have key : ∀ d : BitVec 1, ∀ a : BitVec 7, directionField (d ++ a) = d := by decide
  exact key d a

theorem addressField_append (d : BitVec 1) (a : Addr7) : addressField (d ++ a) = a := by
  have key : ∀ d : BitVec 1, ∀ a : BitVec 7, addressField (d ++ a) = a := by decide
  exact key d a

theorem readLengthField_append (u : BitVec 3) (n : BitVec 5) : readLengthField (u ++ n) = n := by
  have key : ∀ u : BitVec 3, ∀ n : BitVec 5, readLengthField (u ++ n) = n := by decide
  exact key u n

theorem readUnusedField_append (u : BitVec 3) (n : BitVec 5) : readUnusedField (u ++ n) = u := by
  have key : ∀ u : BitVec 3, ∀ n : BitVec 5, readUnusedField (u ++ n) = u := by decide
  exact key u n

theorem gpioFields_append (r : BitVec 1) (u : BitVec 2) (g : GroupId) :
    isRequestField (r ++ u ++ g) = r ∧ gpioUnusedField (r ++ u ++ g) = u ∧ groupField (r ++ u ++ g) = g := by
  have key : ∀ r : BitVec 1, ∀ u : BitVec 2, ∀ g : BitVec 5,
    isRequestField (r ++ u ++ g) = r ∧ gpioUnusedField (r ++ u ++ g) = u ∧ groupField (r ++ u ++ g) = g := by decide
  exact key r u g

/-! ### The codec -/

/-- What CODEC_DECODE accepts, and the frame it then answers. -/
theorem codecDecode_eq_some {b : List Byte} {f : Frame} :
    codecDecode b = some f ↔
      ∃ b0 seq corr rest, b = b0 :: seq :: corr :: rest ∧ 3 ≤ lengthField b0 ∧ lengthField b0 ≤ rest.length + 3 ∧
        f = { opType := opTypeField b0, seq := seq, corr := corr, payload := rest.take (lengthField b0 - 3) } := by
  constructor
  · intro h
    match b, h with
    | b0 :: seq :: corr :: rest, h =>
      simp only [codecDecode] at h
      split at h
      · cases h
      · split at h
        · cases h
        · exact ⟨b0, seq, corr, rest, rfl, by omega, by omega, by simpa using h.symm⟩
  · rintro ⟨b0, seq, corr, rest, rfl, h1, h2, rfl⟩
    simp only [codecDecode]
    rw [if_neg (by omega), if_neg (by omega)]

/-- What an accepted frame's parts are: its header is the first byte, its payload what `L` leaves of the rest. -/
theorem codecDecode_header {b : List Byte} {f : Frame} (h : codecDecode b = some f) :
    b.head? = some f.header ∧ f.payload.length ≤ 28 ∧ frameBytes b = f.header :: f.seq :: f.corr :: f.payload := by
  obtain ⟨b0, seq, corr, rest, rfl, h1, h2, rfl⟩ := codecDecode_eq_some.1 h
  have hl : (rest.take (lengthField b0 - 3)).length = lengthField b0 - 3 := by rw [List.length_take]; omega
  have hh : Frame.header { opType := opTypeField b0, seq := seq, corr := corr, payload := rest.take (lengthField b0 - 3) } = b0 := by
    simp only [Frame.header, Frame.length, hl]
    exact headerByte_fields b0 h1
  refine ⟨by rw [hh]; rfl, by have := lengthField_le b0; simp only [hl]; omega, ?_⟩
  rw [hh, frameBytes, show lengthField b0 = (lengthField b0 - 3) + 3 by omega]
  rfl

/-- Bytes that CODEC_DECODE rejects are no frame command (R59, R105). -/
theorem decodeFrame_none {groups : List GroupId} {b : List Byte} (h : codecDecode b = none) :
    decodeFrame groups b = .error .truncated := by
  simp only [decodeFrame, h]

/-- A frame that CODEC_DECODE accepts decodes to the command of its row. -/
theorem decodeFrame_some {groups : List GroupId} {b : List Byte} {f : Frame} (h : codecDecode b = some f) :
    decodeFrame groups b = decodeCommand groups f := by
  simp only [decodeFrame, h]

/-- The decoder of a raw frame is the decoder of its bytes. -/
theorem decode_frame_ok {p : Params} {b : List Byte} {c : FrameCmd} (h : decodeFrame p.supportedGroups b = .ok c) :
    decode p (.frame b) = .ok c.toInstr := by
  simp only [decode, h]

theorem decode_frame_error {p : Params} {b : List Byte} {e : DecodeError} (h : decodeFrame p.supportedGroups b = .error e) :
    decode p (.frame b) = .error e := by
  simp only [decode, h]

/-- A handle that a number stands for is one of CHANNEL_ID, which has at least one. -/
theorem isChannel_channel {p : Params} (k : Nat) (h : p.channelIds ≠ some 0) : p.isChannel (p.channel k) = true := by
  unfold Params.isChannel Params.channel
  split
  · rfl
  · rename_i n hn
    exact decide_eq_true (Nat.mod_lt _ (Nat.pos_of_ne_zero fun h0 => h (h0 ▸ hn)))

/-- The bytes of a whole frame are the frame's own. -/
theorem frameBytes_whole (op : OpType) (seq corr : Byte) {p : List Byte} (h : p.length ≤ 28) :
    frameBytes (headerByte op p.length :: seq :: corr :: p) = headerByte op p.length :: seq :: corr :: p := by
  rw [frameBytes, lengthField_headerByte op h]
  exact List.take_of_length_le (by simp)

/-- A whole frame decodes to its fields (R104, R105). -/
theorem codecDecode_whole (op : OpType) (seq corr : Byte) {p : List Byte} (h : p.length ≤ 28) :
    codecDecode (headerByte op p.length :: seq :: corr :: p) =
      some { opType := op, seq := seq, corr := corr, payload := p } := by
  refine codecDecode_eq_some.2 ⟨_, _, _, _, rfl, ?_, ?_, ?_⟩
  · rw [lengthField_headerByte op h]; omega
  · rw [lengthField_headerByte op h]
  · rw [lengthField_headerByte op h, opTypeField_headerByte op h, Nat.add_sub_cancel, List.take_length]

end Sys2Proof
end

