-- ==== Sys2Proof/Laws/Memory.lean ====
section
/-! SUPPORT. The laws of a buffer: reading after a write, and that every write keeps the canonical form. -/
namespace Sys2Proof.Machine

@[simp] theorem Memory.get_nil (i : Nat) : Memory.get [] i = none := rfl

/-- A read after a write to the same index gives the value written. -/
@[simp] theorem Memory.get_set_same (m : Memory) (i : Nat) (v : Byte) : (m.set i v).get i = some v := by
  induction m with
  | nil => simp [Memory.set, Memory.get]
  | cons c m ih =>
    obtain ⟨j, b⟩ := c
    simp only [Memory.set]
    split
    · simp [Memory.get]
    · split
      · simp [Memory.get]
      · rename_i h1 h2
        simp [Memory.get, ih, Ne.symm h2]

/-- A write leaves every other index alone. -/
theorem Memory.get_set_other (m : Memory) (i j : Nat) (v : Byte) (h : j ≠ i) : (m.set i v).get j = m.get j := by
  induction m with
  | nil => simp [Memory.set, Memory.get, Ne.symm h]
  | cons c m ih =>
    obtain ⟨k, b⟩ := c
    simp only [Memory.set]
    split
    · simp [Memory.get, Ne.symm h]
    · split
      · rename_i h1 h2
        subst h2
        simp [Memory.get, Ne.symm h]
      · simp [Memory.get, ih]

/-- A read after a write, in one equation. -/
theorem Memory.get_set (m : Memory) (i j : Nat) (v : Byte) :
    (m.set i v).get j = if j = i then some v else m.get j := by
  split
  · subst_vars; simp
  · exact Memory.get_set_other m i j v ‹_›

/-- The entries after a write are the written one and old ones. -/
theorem Memory.mem_set {m : Memory} {i : Nat} {v : Byte} {c : Nat × Byte} (h : c ∈ m.set i v) :
    c = (i, v) ∨ c ∈ m := by
  induction m with
  | nil => simpa [Memory.set] using h
  | cons d m ih =>
    obtain ⟨j, b⟩ := d
    simp only [Memory.set] at h
    split at h
    · simpa using h
    · split at h
      · rcases List.mem_cons.1 h with h | h
        · exact .inl h
        · exact .inr (List.mem_cons_of_mem _ h)
      · rcases List.mem_cons.1 h with h | h
        · exact .inr (h ▸ List.mem_cons_self)
        · exact (ih h).imp id (List.mem_cons_of_mem _)

/-- A write inside the buffer keeps its canonical form. -/
theorem Memory.set_wf {m : Memory} {i : Nat} {v : Byte} (h : m.wf) (hi : i < maxXfer) : (m.set i v).wf := by
  obtain ⟨hs, hb⟩ := h
  refine ⟨?_, fun c hc => ?_⟩
  · induction m with
    | nil => simp [Memory.set]
    | cons d m ih =>
      obtain ⟨j, b⟩ := d
      rw [List.pairwise_cons] at hs
      have ih := ih hs.2 fun c hc => hb c (List.mem_cons_of_mem _ hc)
      simp only [Memory.set]
      split
      · rename_i hij
        refine List.pairwise_cons.2 ⟨fun c hc => ?_, List.pairwise_cons.2 hs⟩
        rcases List.mem_cons.1 hc with rfl | hc
        · exact hij
        · exact Nat.lt_trans hij (hs.1 c hc)
      · split
        · rename_i h1 h2
          subst h2
          exact List.pairwise_cons.2 ⟨hs.1, hs.2⟩
        · rename_i h1 h2
          refine List.pairwise_cons.2 ⟨fun c hc => ?_, ih⟩
          rcases Memory.mem_set hc with rfl | hc
          · show j < i
            omega
          · exact hs.1 c hc
  · rcases Memory.mem_set hc with rfl | hc
    · exact hi
    · exact hb c hc

/-- What `memRead` can answer. -/
theorem memRead_ok_iff {m : Memory} {i : Nat} {b : Byte} : memRead m i = .ok b ↔ i < maxXfer ∧ m.get i = some b := by
  unfold memRead
  split
  · split <;> simp_all
  · simp_all

/-- What `memWrite` can answer. -/
theorem memWrite_ok_iff {m m' : Memory} {i : Nat} {v : Byte} :
    memWrite m i v = .ok m' ↔ i < maxXfer ∧ m' = m.set i v := by
  unfold memWrite
  split <;> simp_all [eq_comm]

/-- The copy loop succeeds inside the buffer; it changes exactly the bytes it copies and keeps the canonical form. -/
theorem memWriteAll_spec {m : Memory} {i : Nat} {bs : List Byte} (h : i + bs.length ≤ maxXfer) :
    ∃ m', memWriteAll m i bs = .ok m' ∧ (m.wf → m'.wf) ∧
      ∀ j, m'.get j = if i ≤ j ∧ j < i + bs.length then bs[j - i]? else m.get j := by
  induction bs generalizing m i with
  | nil =>
    refine ⟨m, rfl, id, fun j => ?_⟩
    rw [if_neg (by simp)]
  | cons b bs ih =>
    simp only [List.length_cons] at h
    obtain ⟨m', h1, h2, h3⟩ := ih (m := m.set i b) (i := i + 1) (by omega)
    refine ⟨m', ?_, fun hw => h2 (Memory.set_wf hw (by omega)), fun j => ?_⟩
    · have : memWrite m i b = .ok (m.set i b) := memWrite_ok_iff.2 ⟨by omega, rfl⟩
      simp only [memWriteAll, this, h1]
    · rw [h3 j, Memory.get_set]
      rcases Nat.lt_trichotomy j i with hj | rfl | hj
      · rw [if_neg (by omega), if_neg (by omega), if_neg (by simp; omega)]
      · rw [if_neg (by omega), if_pos rfl, if_pos (by simp), Nat.sub_self]; rfl
      · by_cases hl : j < i + 1 + bs.length
        · rw [if_pos ⟨by omega, hl⟩, if_pos ⟨by omega, by simp; omega⟩]
          rw [show j - i = (j - (i + 1)) + 1 by omega]; rfl
        · rw [if_neg (by omega), if_neg (by omega), if_neg (by simp; omega)]

/-- The copy loop of an empty list changes nothing. -/
@[simp] theorem memWriteAll_nil (m : Memory) (i : Nat) : memWriteAll m i [] = .ok m := rfl

/-- The result loop reads the bytes it finds (R84). -/
theorem memReadAll_spec {m : Memory} {i n : Nat} {bs : List Byte} (hn : bs.length = n) (hi : i + n ≤ maxXfer)
    (h : ∀ j < n, m.get (i + j) = bs[j]?) : memReadAll m i n = .ok bs := by
  induction bs generalizing i n with
  | nil => subst hn; rfl
  | cons b bs ih =>
    subst hn
    simp only [List.length_cons] at hi h
    have h0 : memRead m i = .ok b := memRead_ok_iff.2 ⟨by omega, by simpa using h 0 (by omega)⟩
    have h1 : memReadAll m (i + 1) bs.length = .ok bs :=
      ih rfl (by omega) fun j hj => by
        have := h (j + 1) (by omega)
        rwa [show i + (j + 1) = i + 1 + j by omega, List.getElem?_cons_succ] at this
    simp only [List.length_cons, memReadAll, h0, h1]

/-- The result loop enters UNWRITTEN_BUF where a byte has not been written (R20, R84). -/
theorem memReadAll_unwritten {m : Memory} {i n : Nat} (hi : i + n ≤ maxXfer) (h : ∃ j < n, m.get (i + j) = none) :
    memReadAll m i n = .error .unwrittenBuf := by
  induction n generalizing i with
  | zero => obtain ⟨j, hj, -⟩ := h; omega
  | succ n ih =>
    have hm : i < maxXfer := by omega
    rcases h0 : m.get i with _ | b
    · simp only [memReadAll, memRead, if_pos hm, h0]
    · obtain ⟨j, hj, hg⟩ := h
      rcases j with _ | j
      · rw [Nat.add_zero, h0] at hg; cases hg
      · have := ih (i := i + 1) (by omega) ⟨j, by omega, by rwa [show i + 1 + j = i + (j + 1) by omega]⟩
        simp only [memReadAll, memRead, if_pos hm, h0, this]

/-- The result loop succeeds where every byte has been written. -/
theorem memReadAll_written {m : Memory} {i n : Nat} (hi : i + n ≤ maxXfer)
    (h : ∀ j < n, (m.get (i + j)).isSome = true) : ∃ bs, memReadAll m i n = .ok bs ∧ bs.length = n := by
  induction n generalizing i with
  | zero => exact ⟨[], rfl, rfl⟩
  | succ n ih =>
    obtain ⟨b, hb⟩ := Option.isSome_iff_exists.1 (h 0 (by omega))
    obtain ⟨bs, h1, h2⟩ := ih (i := i + 1) (by omega) fun j hj => by
      have := h (j + 1) (by omega)
      rwa [show i + (j + 1) = i + 1 + j by omega] at this
    refine ⟨b :: bs, ?_, by simp [h2]⟩
    have h0 : memRead m i = .ok b := memRead_ok_iff.2 ⟨by omega, hb⟩
    simp only [memReadAll, h0, h1]

end Sys2Proof.Machine
end

