-- ==== Sys2Proof/Laws/State.lean ====
section
/-! SUPPORT. What each of the small state updates does to each field, true by unfolding: later proofs rewrite with these and
never open a record update. -/
namespace Sys2Proof.Machine

/-! ### `State.emit` -/

@[simp] theorem emit_engState (s : State) (t : TraceItem) : (s.emit t).engState = s.engState := rfl
@[simp] theorem emit_engDir (s : State) (t : TraceItem) : (s.emit t).engDir = s.engDir := rfl
@[simp] theorem emit_engAddr (s : State) (t : TraceItem) : (s.emit t).engAddr = s.engAddr := rfl
@[simp] theorem emit_engLen (s : State) (t : TraceItem) : (s.emit t).engLen = s.engLen := rfl
@[simp] theorem emit_engIdx (s : State) (t : TraceItem) : (s.emit t).engIdx = s.engIdx := rfl
@[simp] theorem emit_engRem (s : State) (t : TraceItem) : (s.emit t).engRem = s.engRem := rfl
@[simp] theorem emit_engBuf (s : State) (t : TraceItem) : (s.emit t).engBuf = s.engBuf := rfl
@[simp] theorem emit_engErr (s : State) (t : TraceItem) : (s.emit t).engErr = s.engErr := rfl
@[simp] theorem emit_engDone (s : State) (t : TraceItem) : (s.emit t).engDone = s.engDone := rfl
@[simp] theorem emit_engStopreq (s : State) (t : TraceItem) : (s.emit t).engStopreq = s.engStopreq := rfl
@[simp] theorem emit_engUnexp (s : State) (t : TraceItem) : (s.emit t).engUnexp = s.engUnexp := rfl
@[simp] theorem emit_pOwe (s : State) (t : TraceItem) : (s.emit t).pOwe = s.pOwe := rfl
@[simp] theorem emit_pStopPending (s : State) (t : TraceItem) : (s.emit t).pStopPending = s.pStopPending := rfl
@[simp] theorem emit_ownseq (s : State) (t : TraceItem) : (s.emit t).ownseq = s.ownseq := rfl
@[simp] theorem emit_linkConnected (s : State) (t : TraceItem) : (s.emit t).linkConnected = s.linkConnected := rfl
@[simp] theorem emit_linkChannel (s : State) (t : TraceItem) : (s.emit t).linkChannel = s.linkChannel := rfl
@[simp] theorem emit_gpioLast (s : State) (t : TraceItem) : (s.emit t).gpioLast = s.gpioLast := rfl
@[simp] theorem emit_seqPhase (s : State) (t : TraceItem) : (s.emit t).seqPhase = s.seqPhase := rfl
@[simp] theorem emit_dispCtx (s : State) (t : TraceItem) : (s.emit t).dispCtx = s.dispCtx := rfl
@[simp] theorem emit_fault (s : State) (t : TraceItem) : (s.emit t).fault = s.fault := rfl
@[simp] theorem emit_trace (s : State) (t : TraceItem) : (s.emit t).trace = s.trace ++ [t] := rfl
@[simp] theorem emit_pinReg (s : State) (t : TraceItem) : (s.emit t).pinReg = s.pinReg := rfl
@[simp] theorem emit_inputs (s : State) (t : TraceItem) : (s.emit t).inputs = s.inputs := rfl
@[simp] theorem emit_held (s : State) (t : TraceItem) : (s.emit t).held = s.held := rfl
@[simp] theorem emit_returns (s : State) (t : TraceItem) : (s.emit t).returns = s.returns := rfl
@[simp] theorem emit_freeCount (s : State) (t : TraceItem) : (s.emit t).freeCount = s.freeCount := rfl
@[simp] theorem emit_params (s : State) (t : TraceItem) : (s.emit t).params = s.params := rfl

/-! ### `State.emitStart` -/

@[simp] theorem emitStart_engState (s : State) (a : Byte) : (s.emitStart a).engState = s.engState := rfl
@[simp] theorem emitStart_engDir (s : State) (a : Byte) : (s.emitStart a).engDir = s.engDir := rfl
@[simp] theorem emitStart_engAddr (s : State) (a : Byte) : (s.emitStart a).engAddr = s.engAddr := rfl
@[simp] theorem emitStart_engLen (s : State) (a : Byte) : (s.emitStart a).engLen = s.engLen := rfl
@[simp] theorem emitStart_engIdx (s : State) (a : Byte) : (s.emitStart a).engIdx = s.engIdx := rfl
@[simp] theorem emitStart_engRem (s : State) (a : Byte) : (s.emitStart a).engRem = s.engRem := rfl
@[simp] theorem emitStart_engBuf (s : State) (a : Byte) : (s.emitStart a).engBuf = s.engBuf := rfl
@[simp] theorem emitStart_engErr (s : State) (a : Byte) : (s.emitStart a).engErr = s.engErr := rfl
@[simp] theorem emitStart_engDone (s : State) (a : Byte) : (s.emitStart a).engDone = s.engDone := rfl
@[simp] theorem emitStart_engStopreq (s : State) (a : Byte) : (s.emitStart a).engStopreq = s.engStopreq := rfl
@[simp] theorem emitStart_engUnexp (s : State) (a : Byte) : (s.emitStart a).engUnexp = s.engUnexp := rfl
@[simp] theorem emitStart_pOwe (s : State) (a : Byte) : (s.emitStart a).pOwe = if a.getLsbD 0 then .ackR else .ackW := rfl
@[simp] theorem emitStart_pStopPending (s : State) (a : Byte) : (s.emitStart a).pStopPending = s.pStopPending := rfl
@[simp] theorem emitStart_ownseq (s : State) (a : Byte) : (s.emitStart a).ownseq = s.ownseq := rfl
@[simp] theorem emitStart_linkConnected (s : State) (a : Byte) : (s.emitStart a).linkConnected = s.linkConnected := rfl
@[simp] theorem emitStart_linkChannel (s : State) (a : Byte) : (s.emitStart a).linkChannel = s.linkChannel := rfl
@[simp] theorem emitStart_gpioLast (s : State) (a : Byte) : (s.emitStart a).gpioLast = s.gpioLast := rfl
@[simp] theorem emitStart_seqPhase (s : State) (a : Byte) : (s.emitStart a).seqPhase = s.seqPhase := rfl
@[simp] theorem emitStart_dispCtx (s : State) (a : Byte) : (s.emitStart a).dispCtx = s.dispCtx := rfl
@[simp] theorem emitStart_fault (s : State) (a : Byte) : (s.emitStart a).fault = s.fault := rfl
@[simp] theorem emitStart_trace (s : State) (a : Byte) : (s.emitStart a).trace = s.trace ++ [.start a] := rfl
@[simp] theorem emitStart_pinReg (s : State) (a : Byte) : (s.emitStart a).pinReg = s.pinReg := rfl
@[simp] theorem emitStart_inputs (s : State) (a : Byte) : (s.emitStart a).inputs = s.inputs := rfl
@[simp] theorem emitStart_held (s : State) (a : Byte) : (s.emitStart a).held = s.held := rfl
@[simp] theorem emitStart_returns (s : State) (a : Byte) : (s.emitStart a).returns = s.returns := rfl
@[simp] theorem emitStart_freeCount (s : State) (a : Byte) : (s.emitStart a).freeCount = s.freeCount := rfl
@[simp] theorem emitStart_params (s : State) (a : Byte) : (s.emitStart a).params = s.params := rfl

/-! ### `State.emitTx` -/

@[simp] theorem emitTx_engState (s : State) (b : Byte) : (s.emitTx b).engState = s.engState := rfl
@[simp] theorem emitTx_engDir (s : State) (b : Byte) : (s.emitTx b).engDir = s.engDir := rfl
@[simp] theorem emitTx_engAddr (s : State) (b : Byte) : (s.emitTx b).engAddr = s.engAddr := rfl
@[simp] theorem emitTx_engLen (s : State) (b : Byte) : (s.emitTx b).engLen = s.engLen := rfl
@[simp] theorem emitTx_engIdx (s : State) (b : Byte) : (s.emitTx b).engIdx = s.engIdx := rfl
@[simp] theorem emitTx_engRem (s : State) (b : Byte) : (s.emitTx b).engRem = s.engRem := rfl
@[simp] theorem emitTx_engBuf (s : State) (b : Byte) : (s.emitTx b).engBuf = s.engBuf := rfl
@[simp] theorem emitTx_engErr (s : State) (b : Byte) : (s.emitTx b).engErr = s.engErr := rfl
@[simp] theorem emitTx_engDone (s : State) (b : Byte) : (s.emitTx b).engDone = s.engDone := rfl
@[simp] theorem emitTx_engStopreq (s : State) (b : Byte) : (s.emitTx b).engStopreq = s.engStopreq := rfl
@[simp] theorem emitTx_engUnexp (s : State) (b : Byte) : (s.emitTx b).engUnexp = s.engUnexp := rfl
@[simp] theorem emitTx_pOwe (s : State) (b : Byte) : (s.emitTx b).pOwe = .ackW := rfl
@[simp] theorem emitTx_pStopPending (s : State) (b : Byte) : (s.emitTx b).pStopPending = s.pStopPending := rfl
@[simp] theorem emitTx_ownseq (s : State) (b : Byte) : (s.emitTx b).ownseq = s.ownseq := rfl
@[simp] theorem emitTx_linkConnected (s : State) (b : Byte) : (s.emitTx b).linkConnected = s.linkConnected := rfl
@[simp] theorem emitTx_linkChannel (s : State) (b : Byte) : (s.emitTx b).linkChannel = s.linkChannel := rfl
@[simp] theorem emitTx_gpioLast (s : State) (b : Byte) : (s.emitTx b).gpioLast = s.gpioLast := rfl
@[simp] theorem emitTx_seqPhase (s : State) (b : Byte) : (s.emitTx b).seqPhase = s.seqPhase := rfl
@[simp] theorem emitTx_dispCtx (s : State) (b : Byte) : (s.emitTx b).dispCtx = s.dispCtx := rfl
@[simp] theorem emitTx_fault (s : State) (b : Byte) : (s.emitTx b).fault = s.fault := rfl
@[simp] theorem emitTx_trace (s : State) (b : Byte) : (s.emitTx b).trace = s.trace ++ [.tx b] := rfl
@[simp] theorem emitTx_pinReg (s : State) (b : Byte) : (s.emitTx b).pinReg = s.pinReg := rfl
@[simp] theorem emitTx_inputs (s : State) (b : Byte) : (s.emitTx b).inputs = s.inputs := rfl
@[simp] theorem emitTx_held (s : State) (b : Byte) : (s.emitTx b).held = s.held := rfl
@[simp] theorem emitTx_returns (s : State) (b : Byte) : (s.emitTx b).returns = s.returns := rfl
@[simp] theorem emitTx_freeCount (s : State) (b : Byte) : (s.emitTx b).freeCount = s.freeCount := rfl
@[simp] theorem emitTx_params (s : State) (b : Byte) : (s.emitTx b).params = s.params := rfl

/-! ### `State.emitStop` -/

@[simp] theorem emitStop_engState (s : State) : (s.emitStop).engState = s.engState := rfl
@[simp] theorem emitStop_engDir (s : State) : (s.emitStop).engDir = s.engDir := rfl
@[simp] theorem emitStop_engAddr (s : State) : (s.emitStop).engAddr = s.engAddr := rfl
@[simp] theorem emitStop_engLen (s : State) : (s.emitStop).engLen = s.engLen := rfl
@[simp] theorem emitStop_engIdx (s : State) : (s.emitStop).engIdx = s.engIdx := rfl
@[simp] theorem emitStop_engRem (s : State) : (s.emitStop).engRem = s.engRem := rfl
@[simp] theorem emitStop_engBuf (s : State) : (s.emitStop).engBuf = s.engBuf := rfl
@[simp] theorem emitStop_engErr (s : State) : (s.emitStop).engErr = s.engErr := rfl
@[simp] theorem emitStop_engDone (s : State) : (s.emitStop).engDone = s.engDone := rfl
@[simp] theorem emitStop_engStopreq (s : State) : (s.emitStop).engStopreq = true := rfl
@[simp] theorem emitStop_engUnexp (s : State) : (s.emitStop).engUnexp = s.engUnexp := rfl
@[simp] theorem emitStop_pOwe (s : State) : (s.emitStop).pOwe = s.pOwe := rfl
@[simp] theorem emitStop_pStopPending (s : State) : (s.emitStop).pStopPending = true := rfl
@[simp] theorem emitStop_ownseq (s : State) : (s.emitStop).ownseq = s.ownseq := rfl
@[simp] theorem emitStop_linkConnected (s : State) : (s.emitStop).linkConnected = s.linkConnected := rfl
@[simp] theorem emitStop_linkChannel (s : State) : (s.emitStop).linkChannel = s.linkChannel := rfl
@[simp] theorem emitStop_gpioLast (s : State) : (s.emitStop).gpioLast = s.gpioLast := rfl
@[simp] theorem emitStop_seqPhase (s : State) : (s.emitStop).seqPhase = s.seqPhase := rfl
@[simp] theorem emitStop_dispCtx (s : State) : (s.emitStop).dispCtx = s.dispCtx := rfl
@[simp] theorem emitStop_fault (s : State) : (s.emitStop).fault = s.fault := rfl
@[simp] theorem emitStop_trace (s : State) : (s.emitStop).trace = s.trace ++ [.stopReq] := rfl
@[simp] theorem emitStop_pinReg (s : State) : (s.emitStop).pinReg = s.pinReg := rfl
@[simp] theorem emitStop_inputs (s : State) : (s.emitStop).inputs = s.inputs := rfl
@[simp] theorem emitStop_held (s : State) : (s.emitStop).held = s.held := rfl
@[simp] theorem emitStop_returns (s : State) : (s.emitStop).returns = s.returns := rfl
@[simp] theorem emitStop_freeCount (s : State) : (s.emitStop).freeCount = s.freeCount := rfl
@[simp] theorem emitStop_params (s : State) : (s.emitStop).params = s.params := rfl

/-! ### `State.giveBack` -/

@[simp] theorem giveBack_engState (s : State) (r : ReturnItem) : (s.giveBack r).engState = s.engState := rfl
@[simp] theorem giveBack_engDir (s : State) (r : ReturnItem) : (s.giveBack r).engDir = s.engDir := rfl
@[simp] theorem giveBack_engAddr (s : State) (r : ReturnItem) : (s.giveBack r).engAddr = s.engAddr := rfl
@[simp] theorem giveBack_engLen (s : State) (r : ReturnItem) : (s.giveBack r).engLen = s.engLen := rfl
@[simp] theorem giveBack_engIdx (s : State) (r : ReturnItem) : (s.giveBack r).engIdx = s.engIdx := rfl
@[simp] theorem giveBack_engRem (s : State) (r : ReturnItem) : (s.giveBack r).engRem = s.engRem := rfl
@[simp] theorem giveBack_engBuf (s : State) (r : ReturnItem) : (s.giveBack r).engBuf = s.engBuf := rfl
@[simp] theorem giveBack_engErr (s : State) (r : ReturnItem) : (s.giveBack r).engErr = s.engErr := rfl
@[simp] theorem giveBack_engDone (s : State) (r : ReturnItem) : (s.giveBack r).engDone = s.engDone := rfl
@[simp] theorem giveBack_engStopreq (s : State) (r : ReturnItem) : (s.giveBack r).engStopreq = s.engStopreq := rfl
@[simp] theorem giveBack_engUnexp (s : State) (r : ReturnItem) : (s.giveBack r).engUnexp = s.engUnexp := rfl
@[simp] theorem giveBack_pOwe (s : State) (r : ReturnItem) : (s.giveBack r).pOwe = s.pOwe := rfl
@[simp] theorem giveBack_pStopPending (s : State) (r : ReturnItem) : (s.giveBack r).pStopPending = s.pStopPending := rfl
@[simp] theorem giveBack_ownseq (s : State) (r : ReturnItem) : (s.giveBack r).ownseq = s.ownseq := rfl
@[simp] theorem giveBack_linkConnected (s : State) (r : ReturnItem) : (s.giveBack r).linkConnected = s.linkConnected := rfl
@[simp] theorem giveBack_linkChannel (s : State) (r : ReturnItem) : (s.giveBack r).linkChannel = s.linkChannel := rfl
@[simp] theorem giveBack_gpioLast (s : State) (r : ReturnItem) : (s.giveBack r).gpioLast = s.gpioLast := rfl
@[simp] theorem giveBack_seqPhase (s : State) (r : ReturnItem) : (s.giveBack r).seqPhase = s.seqPhase := rfl
@[simp] theorem giveBack_dispCtx (s : State) (r : ReturnItem) : (s.giveBack r).dispCtx = s.dispCtx := rfl
@[simp] theorem giveBack_fault (s : State) (r : ReturnItem) : (s.giveBack r).fault = s.fault := rfl
@[simp] theorem giveBack_trace (s : State) (r : ReturnItem) : (s.giveBack r).trace = s.trace := rfl
@[simp] theorem giveBack_pinReg (s : State) (r : ReturnItem) : (s.giveBack r).pinReg = s.pinReg := rfl
@[simp] theorem giveBack_inputs (s : State) (r : ReturnItem) : (s.giveBack r).inputs = s.inputs := rfl
@[simp] theorem giveBack_held (s : State) (r : ReturnItem) : (s.giveBack r).held = s.held := rfl
@[simp] theorem giveBack_returns (s : State) (r : ReturnItem) : (s.giveBack r).returns = s.returns ++ [r] := rfl
@[simp] theorem giveBack_freeCount (s : State) (r : ReturnItem) : (s.giveBack r).freeCount = s.freeCount := rfl
@[simp] theorem giveBack_params (s : State) (r : ReturnItem) : (s.giveBack r).params = s.params := rfl

/-! ### `State.setPhase` -/

@[simp] theorem setPhase_engState (s : State) (p : SeqPhase) : (s.setPhase p).engState = s.engState := rfl
@[simp] theorem setPhase_engDir (s : State) (p : SeqPhase) : (s.setPhase p).engDir = s.engDir := rfl
@[simp] theorem setPhase_engAddr (s : State) (p : SeqPhase) : (s.setPhase p).engAddr = s.engAddr := rfl
@[simp] theorem setPhase_engLen (s : State) (p : SeqPhase) : (s.setPhase p).engLen = s.engLen := rfl
@[simp] theorem setPhase_engIdx (s : State) (p : SeqPhase) : (s.setPhase p).engIdx = s.engIdx := rfl
@[simp] theorem setPhase_engRem (s : State) (p : SeqPhase) : (s.setPhase p).engRem = s.engRem := rfl
@[simp] theorem setPhase_engBuf (s : State) (p : SeqPhase) : (s.setPhase p).engBuf = s.engBuf := rfl
@[simp] theorem setPhase_engErr (s : State) (p : SeqPhase) : (s.setPhase p).engErr = s.engErr := rfl
@[simp] theorem setPhase_engDone (s : State) (p : SeqPhase) : (s.setPhase p).engDone = s.engDone := rfl
@[simp] theorem setPhase_engStopreq (s : State) (p : SeqPhase) : (s.setPhase p).engStopreq = s.engStopreq := rfl
@[simp] theorem setPhase_engUnexp (s : State) (p : SeqPhase) : (s.setPhase p).engUnexp = s.engUnexp := rfl
@[simp] theorem setPhase_pOwe (s : State) (p : SeqPhase) : (s.setPhase p).pOwe = s.pOwe := rfl
@[simp] theorem setPhase_pStopPending (s : State) (p : SeqPhase) : (s.setPhase p).pStopPending = s.pStopPending := rfl
@[simp] theorem setPhase_ownseq (s : State) (p : SeqPhase) : (s.setPhase p).ownseq = s.ownseq := rfl
@[simp] theorem setPhase_linkConnected (s : State) (p : SeqPhase) : (s.setPhase p).linkConnected = s.linkConnected := rfl
@[simp] theorem setPhase_linkChannel (s : State) (p : SeqPhase) : (s.setPhase p).linkChannel = s.linkChannel := rfl
@[simp] theorem setPhase_gpioLast (s : State) (p : SeqPhase) : (s.setPhase p).gpioLast = s.gpioLast := rfl
@[simp] theorem setPhase_seqPhase (s : State) (p : SeqPhase) : (s.setPhase p).seqPhase = p := rfl
@[simp] theorem setPhase_dispCtx (s : State) (p : SeqPhase) : (s.setPhase p).dispCtx = s.dispCtx := rfl
@[simp] theorem setPhase_fault (s : State) (p : SeqPhase) : (s.setPhase p).fault = s.fault := rfl
@[simp] theorem setPhase_trace (s : State) (p : SeqPhase) : (s.setPhase p).trace = s.trace := rfl
@[simp] theorem setPhase_pinReg (s : State) (p : SeqPhase) : (s.setPhase p).pinReg = s.pinReg := rfl
@[simp] theorem setPhase_inputs (s : State) (p : SeqPhase) : (s.setPhase p).inputs = s.inputs := rfl
@[simp] theorem setPhase_held (s : State) (p : SeqPhase) : (s.setPhase p).held = s.held := rfl
@[simp] theorem setPhase_returns (s : State) (p : SeqPhase) : (s.setPhase p).returns = s.returns := rfl
@[simp] theorem setPhase_freeCount (s : State) (p : SeqPhase) : (s.setPhase p).freeCount = s.freeCount := rfl
@[simp] theorem setPhase_params (s : State) (p : SeqPhase) : (s.setPhase p).params = s.params := rfl

/-! ### `State.hold` -/

@[simp] theorem hold_engState (s : State) (i : Instr) : (s.hold i).engState = s.engState := rfl
@[simp] theorem hold_engDir (s : State) (i : Instr) : (s.hold i).engDir = s.engDir := rfl
@[simp] theorem hold_engAddr (s : State) (i : Instr) : (s.hold i).engAddr = s.engAddr := rfl
@[simp] theorem hold_engLen (s : State) (i : Instr) : (s.hold i).engLen = s.engLen := rfl
@[simp] theorem hold_engIdx (s : State) (i : Instr) : (s.hold i).engIdx = s.engIdx := rfl
@[simp] theorem hold_engRem (s : State) (i : Instr) : (s.hold i).engRem = s.engRem := rfl
@[simp] theorem hold_engBuf (s : State) (i : Instr) : (s.hold i).engBuf = s.engBuf := rfl
@[simp] theorem hold_engErr (s : State) (i : Instr) : (s.hold i).engErr = s.engErr := rfl
@[simp] theorem hold_engDone (s : State) (i : Instr) : (s.hold i).engDone = s.engDone := rfl
@[simp] theorem hold_engStopreq (s : State) (i : Instr) : (s.hold i).engStopreq = s.engStopreq := rfl
@[simp] theorem hold_engUnexp (s : State) (i : Instr) : (s.hold i).engUnexp = s.engUnexp := rfl
@[simp] theorem hold_pOwe (s : State) (i : Instr) : (s.hold i).pOwe = s.pOwe := rfl
@[simp] theorem hold_pStopPending (s : State) (i : Instr) : (s.hold i).pStopPending = s.pStopPending := rfl
@[simp] theorem hold_ownseq (s : State) (i : Instr) : (s.hold i).ownseq = s.ownseq := rfl
@[simp] theorem hold_linkConnected (s : State) (i : Instr) : (s.hold i).linkConnected = s.linkConnected := rfl
@[simp] theorem hold_linkChannel (s : State) (i : Instr) : (s.hold i).linkChannel = s.linkChannel := rfl
@[simp] theorem hold_gpioLast (s : State) (i : Instr) : (s.hold i).gpioLast = s.gpioLast := rfl
@[simp] theorem hold_seqPhase (s : State) (i : Instr) : (s.hold i).seqPhase = s.seqPhase := rfl
@[simp] theorem hold_dispCtx (s : State) (i : Instr) : (s.hold i).dispCtx = s.dispCtx := rfl
@[simp] theorem hold_fault (s : State) (i : Instr) : (s.hold i).fault = s.fault := rfl
@[simp] theorem hold_trace (s : State) (i : Instr) : (s.hold i).trace = s.trace := rfl
@[simp] theorem hold_pinReg (s : State) (i : Instr) : (s.hold i).pinReg = s.pinReg := rfl
@[simp] theorem hold_inputs (s : State) (i : Instr) : (s.hold i).inputs = s.inputs := rfl
@[simp] theorem hold_held (s : State) (i : Instr) : (s.hold i).held = s.held ++ [i] := rfl
@[simp] theorem hold_returns (s : State) (i : Instr) : (s.hold i).returns = s.returns := rfl
@[simp] theorem hold_freeCount (s : State) (i : Instr) : (s.hold i).freeCount = s.freeCount := rfl
@[simp] theorem hold_params (s : State) (i : Instr) : (s.hold i).params = s.params := rfl

/-! ### `State.enterFault` -/

@[simp] theorem enterFault_engState (s : State) (f : Fault) : (s.enterFault f).engState = s.engState := rfl
@[simp] theorem enterFault_engDir (s : State) (f : Fault) : (s.enterFault f).engDir = s.engDir := rfl
@[simp] theorem enterFault_engAddr (s : State) (f : Fault) : (s.enterFault f).engAddr = s.engAddr := rfl
@[simp] theorem enterFault_engLen (s : State) (f : Fault) : (s.enterFault f).engLen = s.engLen := rfl
@[simp] theorem enterFault_engIdx (s : State) (f : Fault) : (s.enterFault f).engIdx = s.engIdx := rfl
@[simp] theorem enterFault_engRem (s : State) (f : Fault) : (s.enterFault f).engRem = s.engRem := rfl
@[simp] theorem enterFault_engBuf (s : State) (f : Fault) : (s.enterFault f).engBuf = s.engBuf := rfl
@[simp] theorem enterFault_engErr (s : State) (f : Fault) : (s.enterFault f).engErr = s.engErr := rfl
@[simp] theorem enterFault_engDone (s : State) (f : Fault) : (s.enterFault f).engDone = s.engDone := rfl
@[simp] theorem enterFault_engStopreq (s : State) (f : Fault) : (s.enterFault f).engStopreq = s.engStopreq := rfl
@[simp] theorem enterFault_engUnexp (s : State) (f : Fault) : (s.enterFault f).engUnexp = s.engUnexp := rfl
@[simp] theorem enterFault_pOwe (s : State) (f : Fault) : (s.enterFault f).pOwe = s.pOwe := rfl
@[simp] theorem enterFault_pStopPending (s : State) (f : Fault) : (s.enterFault f).pStopPending = s.pStopPending := rfl
@[simp] theorem enterFault_ownseq (s : State) (f : Fault) : (s.enterFault f).ownseq = s.ownseq := rfl
@[simp] theorem enterFault_linkConnected (s : State) (f : Fault) : (s.enterFault f).linkConnected = s.linkConnected := rfl
@[simp] theorem enterFault_linkChannel (s : State) (f : Fault) : (s.enterFault f).linkChannel = s.linkChannel := rfl
@[simp] theorem enterFault_gpioLast (s : State) (f : Fault) : (s.enterFault f).gpioLast = s.gpioLast := rfl
@[simp] theorem enterFault_seqPhase (s : State) (f : Fault) : (s.enterFault f).seqPhase = s.seqPhase := rfl
@[simp] theorem enterFault_dispCtx (s : State) (f : Fault) : (s.enterFault f).dispCtx = s.dispCtx := rfl
@[simp] theorem enterFault_fault (s : State) (f : Fault) : (s.enterFault f).fault = if f ∈ s.fault then s.fault else s.fault ++ [f] := rfl
@[simp] theorem enterFault_trace (s : State) (f : Fault) : (s.enterFault f).trace = s.trace := rfl
@[simp] theorem enterFault_pinReg (s : State) (f : Fault) : (s.enterFault f).pinReg = s.pinReg := rfl
@[simp] theorem enterFault_inputs (s : State) (f : Fault) : (s.enterFault f).inputs = s.inputs := rfl
@[simp] theorem enterFault_held (s : State) (f : Fault) : (s.enterFault f).held = s.held := rfl
@[simp] theorem enterFault_returns (s : State) (f : Fault) : (s.enterFault f).returns = s.returns := rfl
@[simp] theorem enterFault_freeCount (s : State) (f : Fault) : (s.enterFault f).freeCount = s.freeCount := rfl
@[simp] theorem enterFault_params (s : State) (f : Fault) : (s.enterFault f).params = s.params := rfl

/-! ### `State.unexpected` -/

@[simp] theorem unexpected_engState (s : State) : (s.unexpected).engState = s.engState := rfl
@[simp] theorem unexpected_engDir (s : State) : (s.unexpected).engDir = s.engDir := rfl
@[simp] theorem unexpected_engAddr (s : State) : (s.unexpected).engAddr = s.engAddr := rfl
@[simp] theorem unexpected_engLen (s : State) : (s.unexpected).engLen = s.engLen := rfl
@[simp] theorem unexpected_engIdx (s : State) : (s.unexpected).engIdx = s.engIdx := rfl
@[simp] theorem unexpected_engRem (s : State) : (s.unexpected).engRem = s.engRem := rfl
@[simp] theorem unexpected_engBuf (s : State) : (s.unexpected).engBuf = s.engBuf := rfl
@[simp] theorem unexpected_engErr (s : State) : (s.unexpected).engErr = s.engErr := rfl
@[simp] theorem unexpected_engDone (s : State) : (s.unexpected).engDone = s.engDone := rfl
@[simp] theorem unexpected_engStopreq (s : State) : (s.unexpected).engStopreq = s.engStopreq := rfl
@[simp] theorem unexpected_engUnexp (s : State) : (s.unexpected).engUnexp = true := rfl
@[simp] theorem unexpected_pOwe (s : State) : (s.unexpected).pOwe = s.pOwe := rfl
@[simp] theorem unexpected_pStopPending (s : State) : (s.unexpected).pStopPending = s.pStopPending := rfl
@[simp] theorem unexpected_ownseq (s : State) : (s.unexpected).ownseq = s.ownseq := rfl
@[simp] theorem unexpected_linkConnected (s : State) : (s.unexpected).linkConnected = s.linkConnected := rfl
@[simp] theorem unexpected_linkChannel (s : State) : (s.unexpected).linkChannel = s.linkChannel := rfl
@[simp] theorem unexpected_gpioLast (s : State) : (s.unexpected).gpioLast = s.gpioLast := rfl
@[simp] theorem unexpected_seqPhase (s : State) : (s.unexpected).seqPhase = s.seqPhase := rfl
@[simp] theorem unexpected_dispCtx (s : State) : (s.unexpected).dispCtx = s.dispCtx := rfl
@[simp] theorem unexpected_fault (s : State) : (s.unexpected).fault = s.fault := rfl
@[simp] theorem unexpected_trace (s : State) : (s.unexpected).trace = s.trace := rfl
@[simp] theorem unexpected_pinReg (s : State) : (s.unexpected).pinReg = s.pinReg := rfl
@[simp] theorem unexpected_inputs (s : State) : (s.unexpected).inputs = s.inputs := rfl
@[simp] theorem unexpected_held (s : State) : (s.unexpected).held = s.held := rfl
@[simp] theorem unexpected_returns (s : State) : (s.unexpected).returns = s.returns := rfl
@[simp] theorem unexpected_freeCount (s : State) : (s.unexpected).freeCount = s.freeCount := rfl
@[simp] theorem unexpected_params (s : State) : (s.unexpected).params = s.params := rfl

/-! ### `State.advance` -/

@[simp] theorem advance_engState (s : State) : (s.advance).engState = s.engState := rfl
@[simp] theorem advance_engDir (s : State) : (s.advance).engDir = s.engDir := rfl
@[simp] theorem advance_engAddr (s : State) : (s.advance).engAddr = s.engAddr := rfl
@[simp] theorem advance_engLen (s : State) : (s.advance).engLen = s.engLen := rfl
@[simp] theorem advance_engIdx (s : State) : (s.advance).engIdx = s.engIdx := rfl
@[simp] theorem advance_engRem (s : State) : (s.advance).engRem = s.engRem := rfl
@[simp] theorem advance_engBuf (s : State) : (s.advance).engBuf = s.engBuf := rfl
@[simp] theorem advance_engErr (s : State) : (s.advance).engErr = s.engErr := rfl
@[simp] theorem advance_engDone (s : State) : (s.advance).engDone = s.engDone := rfl
@[simp] theorem advance_engStopreq (s : State) : (s.advance).engStopreq = s.engStopreq := rfl
@[simp] theorem advance_engUnexp (s : State) : (s.advance).engUnexp = s.engUnexp := rfl
@[simp] theorem advance_pOwe (s : State) : (s.advance).pOwe = s.pOwe := rfl
@[simp] theorem advance_pStopPending (s : State) : (s.advance).pStopPending = s.pStopPending := rfl
@[simp] theorem advance_ownseq (s : State) : (s.advance).ownseq = s.ownseq := rfl
@[simp] theorem advance_linkConnected (s : State) : (s.advance).linkConnected = s.linkConnected := rfl
@[simp] theorem advance_linkChannel (s : State) : (s.advance).linkChannel = s.linkChannel := rfl
@[simp] theorem advance_gpioLast (s : State) : (s.advance).gpioLast = s.gpioLast := rfl
@[simp] theorem advance_seqPhase (s : State) : (s.advance).seqPhase = s.seqPhase := rfl
@[simp] theorem advance_dispCtx (s : State) : (s.advance).dispCtx = s.dispCtx := rfl
@[simp] theorem advance_fault (s : State) : (s.advance).fault = s.fault := rfl
@[simp] theorem advance_trace (s : State) : (s.advance).trace = s.trace := rfl
@[simp] theorem advance_pinReg (s : State) : (s.advance).pinReg = s.pinReg := rfl
@[simp] theorem advance_inputs (s : State) : (s.advance).inputs = s.inputs.tail := rfl
@[simp] theorem advance_held (s : State) : (s.advance).held = s.held := rfl
@[simp] theorem advance_returns (s : State) : (s.advance).returns = s.returns := rfl
@[simp] theorem advance_freeCount (s : State) : (s.advance).freeCount = s.freeCount := rfl
@[simp] theorem advance_params (s : State) : (s.advance).params = s.params := rfl

end Sys2Proof.Machine
end

