-- ==== Sys2Proof/Laws/Ops.lean ====
section
/-! SUPPORT. One lemma for each shared operation, saying all that it can do; proofs cite these instead of unfolding it. -/
namespace Sys2Proof.Machine

/-! ### The end of a step -/

@[simp] theorem commit_ok (s t : State) : commit s (.ok t) = t := rfl

@[simp] theorem commit_error (s : State) (f : Fault) : commit s (.error f) = s.enterFault f := rfl

/-- A step commits the state it reached or enters a fault. -/
theorem commit_cases (s : State) (r : Except Fault State) :
    (∃ t, r = .ok t ∧ commit s r = t) ∨ ∃ f, r = .error f ∧ commit s r = s.enterFault f := by
  cases r with
  | ok t => exact .inl ⟨t, rfl, rfl⟩
  | error f => exact .inr ⟨f, rfl, rfl⟩

/-- A fault set only grows. -/
theorem enterFault_fault_grows (s : State) (f : Fault) : s.fault <+: (s.enterFault f).fault := by
  simp only [enterFault_fault]
  split
  · exact List.prefix_rfl
  · exact List.prefix_append ..

/-- After `enterFault f` the fault `f` is in the set. -/
theorem mem_enterFault (s : State) (f : Fault) : f ∈ (s.enterFault f).fault := by
  simp only [enterFault_fault]
  split <;> simp_all

/-! ### SEQ operations -/

@[simp] theorem seqFree_iff (s : State) : s.seqFree = true ↔ s.seqPhase = .ready ∧ s.held = [] := by
  simp [State.seqFree]

/-- A SEQ operation runs when SEQ is free. -/
theorem whenReady_free {i : Instr} {act : State → Except Fault State} {s : State}
    (hp : s.seqPhase = .ready) (hh : s.held = []) : whenReady i act s = .next (commit s (act s)) := by
  simp [whenReady, hp, hh]

/-- A SEQ operation is kept when SEQ is not free. -/
theorem whenReady_held {i : Instr} {act : State → Except Fault State} {s : State}
    (h : s.seqPhase ≠ .ready ∨ s.held ≠ []) : whenReady i act s = .next (s.hold i) := by
  unfold whenReady
  rw [if_neg]
  rw [seqFree_iff]
  tauto

/-- All that `whenReady` can answer. -/
theorem whenReady_cases {i : Instr} {act : State → Except Fault State} {s t : State}
    (h : whenReady i act s = .next t) :
    s.seqPhase = .ready ∧ s.held = [] ∧ t = commit s (act s) ∨ t = s.hold i := by
  unfold whenReady at h
  split at h
  · rename_i hf
    rw [seqFree_iff] at hf
    exact .inl ⟨hf.1, hf.2, by injection h with h; exact h.symm⟩
  · exact .inr (by injection h with h; exact h.symm)

/-! ### Arming -/

theorem addressByte_write (a : Addr7) : addressByte a .w = a.setWidth 8 <<< 1 := by
  simp [addressByte, Dir.code]

theorem addressByte_read (a : Addr7) : addressByte a .r = (a.setWidth 8 <<< 1) ||| 1 := by
  simp [addressByte, Dir.code]

theorem addressByte_bit0_write (a : Addr7) : (addressByte a .w).getLsbD 0 = false := by
  simp [addressByte_write]

theorem addressByte_bit0_read (a : Addr7) : (addressByte a .r).getLsbD 0 = true := by
  simp [addressByte_read]

/-- The START of a write (R79). -/
theorem emitStart_write (s : State) (a : Addr7) :
    s.emitStart (addressByte a .w) =
      { s with trace := s.trace ++ [.start (a.setWidth 8 <<< 1)], pOwe := .ackW } := by
  unfold State.emitStart
  rw [addressByte_bit0_write, addressByte_write]
  rfl

/-- The START of a read (R79). -/
theorem emitStart_read (s : State) (a : Addr7) :
    s.emitStart (addressByte a .r) =
      { s with trace := s.trace ++ [.start ((a.setWidth 8 <<< 1) ||| 1)], pOwe := .ackR } := by
  unfold State.emitStart
  rw [addressByte_bit0_read, addressByte_read]
  rfl

/-- Arming for a write of at most MAX_XFER bytes does what R82 says, and keeps the buffer canonical. -/
theorem arm_write {s : State} {a : Addr7} {data : List Byte} (h : data.length ≤ maxXfer) :
    ∃ t, s.arm (.write a data) = .ok t ∧ armsWrite s a data t ∧ (s.engBuf.wf → t.engBuf.wf) := by
  obtain ⟨buf, h1, h2, h3⟩ := memWriteAll_spec (m := s.engBuf) (i := 0) (bs := data) (by omega)
  refine ⟨_, by simp only [State.arm, Call.data, h1]; rfl, ⟨buf, fun j => ?_, ?_⟩, h2⟩
  · simpa using h3 j
  · exact emitStart_write ..

/-- Arming for a read does what R83 says. -/
theorem arm_read (s : State) (a : Addr7) (n : Byte) : ∃ t, s.arm (.read a n) = .ok t ∧ armsRead s a n t := by
  refine ⟨_, by simp only [State.arm, Call.data, memWriteAll_nil]; rfl, ?_⟩
  rw [show Call.dir (.read a n) = .r from rfl, show Call.addr (.read a n) = a from rfl, emitStart_read]
  simp only [armsRead, Call.length, BitVec.ofNat_toNat, BitVec.setWidth_eq]

/-! ### The engine call -/

theorem engCall_busy {p : SeqPhase} {c : Call} {s : State} (h : s.engState ≠ .idle) :
    engCall p c s = .error .engineBusy := by
  simp [engCall, h]

theorem engCall_zero {p : SeqPhase} {c : Call} {s : State} (h : s.engState = .idle) (hc : c.length = 0) :
    engCall p c s = .ok (.returned c.emptyResult s) := by
  simp [engCall, h, hc]

theorem engCall_tooLong {p : SeqPhase} {c : Call} {s : State} (h : s.engState = .idle) (hc : c.length > maxXfer) :
    engCall p c s = .error .xferTooLong := by
  simp [engCall, h, hc, show c.length ≠ 0 by omega]

theorem engCall_gate {p : SeqPhase} {c : Call} {s : State} (h : s.engState = .idle) (h0 : c.length ≠ 0)
    (hm : c.length ≤ maxXfer) (hs : s.pStopPending = true) :
    engCall p c s = .ok (.waiting { s with
      seqPhase := .stopHold, dispCtx := { s.dispCtx with pending := c, resume := p } }) := by
  simp [engCall, h, h0, hs, Nat.not_lt.2 hm]

theorem engCall_arms {p : SeqPhase} {c : Call} {s t : State} (h : s.engState = .idle) (h0 : c.length ≠ 0)
    (hm : c.length ≤ maxXfer) (hs : s.pStopPending = false) (ha : s.arm c = .ok t) :
    engCall p c s = .ok (.waiting (t.setPhase p)) := by
  simp [engCall, h, h0, hs, Nat.not_lt.2 hm, ha]

/-- All that an engine call can do within a step: return at once, arm, or stand at the STOP gate. -/
theorem engCall_cases {p : SeqPhase} {c : Call} {s : State} {r : CallStep} (h : engCall p c s = .ok r) :
    s.engState = .idle ∧
      (c.length = 0 ∧ r = .returned c.emptyResult s ∨
        0 < c.length ∧ c.length ≤ maxXfer ∧
          (s.pStopPending = true ∧ r = .waiting { s with
              seqPhase := .stopHold, dispCtx := { s.dispCtx with pending := c, resume := p } } ∨
            s.pStopPending = false ∧ ∃ t, s.arm c = .ok t ∧ r = .waiting (t.setPhase p))) := by
  unfold engCall at h
  split at h
  · cases h
  · rename_i h0
    refine ⟨not_not.1 h0, ?_⟩
    split at h
    · rename_i h1
      exact .inl ⟨h1, by injection h with h; exact h.symm⟩
    · split at h
      · cases h
      · rename_i h1 h2
        refine .inr ⟨by omega, by omega, ?_⟩
        split at h
        · rename_i h3
          exact .inl ⟨h3, by injection h with h; exact h.symm⟩
        · rename_i h3
          refine .inr ⟨by simpa using h3, ?_⟩
          split at h
          · rename_i t ht
            exact ⟨t, ht, by injection h with h; exact h.symm⟩
          · cases h

/-- The result of a failed call (R84). -/
theorem engResult_err {s : State} {e : BusError} (h : s.engErr.busError = some e) : engResult s = .ok (.err e) := by
  simp [engResult, h]

theorem engResult_write {s : State} (h : s.engErr = .none) (hd : s.engDir = .w) : engResult s = .ok .okWrite := by
  simp [engResult, h, hd, EngErr.busError]

theorem engResult_read {s : State} {bs : List Byte} (h : s.engErr = .none) (hd : s.engDir = .r)
    (hl : bs.length = s.engLen.toNat) (hb : ∀ j < s.engLen.toNat, s.engBuf.get j = bs[j]?) :
    engResult s = .ok (.okRead bs) := by
  have : memReadAll s.engBuf 0 s.engLen.toNat = .ok bs :=
    memReadAll_spec hl (by have := s.engLen.isLt; simp only [maxXfer]; omega) (by simpa using hb)
  simp [engResult, h, hd, EngErr.busError, this]

/-- The result of a read of which a byte has not been written (R20, R84). -/
theorem engResult_unwritten {s : State} (h : s.engErr = .none) (hd : s.engDir = .r)
    (hb : ∃ j < s.engLen.toNat, s.engBuf.get j = none) : engResult s = .error .unwrittenBuf := by
  have : memReadAll s.engBuf 0 s.engLen.toNat = .error .unwrittenBuf :=
    memReadAll_unwritten (by have := s.engLen.isLt; simp only [maxXfer]; omega) (by simpa using hb)
  simp [engResult, h, hd, EngErr.busError, this]

/-! ### Sending -/

/-- DISP_SEND does what R117 says. -/
theorem dispSend_sends (s : State) (op : OpType) (corr : Byte) (payload : List Byte) :
    sends s op corr payload (s.dispSend op corr payload) := by
  by_cases h1 : payload.length + 3 > s.params.maxFrame
  · simp only [sends, State.dispSend, codecEncode, if_pos h1]
    rfl
  · simp only [sends, State.dispSend, codecEncode, if_neg h1]
    by_cases h2 : s.linkConnected = true
    · rw [if_neg (by simp [h2]), if_pos h2]
      rfl
    · rw [if_pos (by simpa using h2), if_neg h2]
      rfl

/-- What R117 says of a send fixes the state. -/
theorem sends_unique {s t u : State} {op : OpType} {corr : Byte} {payload : List Byte}
    (ht : sends s op corr payload t) (hu : sends s op corr payload u) : t = u := by
  unfold sends at ht hu
  split at ht
  · simp_all
  · split at ht <;> simp_all

/-- All that a send can do: one item joins the trace, and `ownseq` counts a frame sent. -/
theorem dispSend_cases (s : State) (op : OpType) (corr : Byte) (payload : List Byte) :
    (∃ d, s.dispSend op corr payload = s.emit (.dropTx d)) ∨
      s.linkConnected = true ∧ ∃ rest,
        s.dispSend op corr payload =
          { s.emit (.send s.linkChannel (headerByte op payload.length :: s.ownseq :: rest)) with
            ownseq := nextSeq s.ownseq } := by
  unfold State.dispSend codecEncode
  split
  · exact .inl ⟨_, rfl⟩
  · rename_i hb
    split at hb
    · cases hb
    · injection hb with hb
      subst hb
      split
      · exact .inr ⟨‹_›, _, rfl⟩
      · exact .inl ⟨_, rfl⟩

/-- The next sequence number is again in 0..254 (R27). -/
theorem nextSeq_lt (q : Byte) : (nextSeq q).toNat < seqMod := by
  have : (q.toNat + 1) % 255 < 255 := Nat.mod_lt _ (by decide)
  simp only [nextSeq, seqMod, BitVec.toNat_ofNat]
  omega

end Sys2Proof.Machine
end

