-- ==== Sys2Proof/Laws/PerInstr.lean ====
section
/-! SUPPORT. A law of every instruction as syntax: what the encoder forms of a well-formed instruction is a legal encoding (R59,
R72, R75), with one lemma per constructor. -/
namespace Sys2Proof.Laws

/-- The encoding of a well-formed instruction is a whole frame that CODEC_DECODE accepts, or an interface word with a
code that is not reserved. -/
def EncodesLegally.Statement (i : Instr) : Prop :=
  ∀ p : Params, i.wellFormed p = true →
    match encode i with
    | .frame b => (codecDecode b).isSome = true ∧ frameBytes b = b
    | .ifc w => w.opc ≠ 0

/-- A header, two bytes and a payload of at most 28 bytes are a whole frame. -/
theorem legalFrame (op : OpType) (q c : Byte) (n : Nat) (p : List Byte) (hn : n = p.length) (h : p.length ≤ 28) :
    (Sys2Proof.codecDecode (headerByte op n :: q :: c :: p)).isSome = true ∧
      frameBytes (headerByte op n :: q :: c :: p) = headerByte op n :: q :: c :: p := by
  subst hn
  exact ⟨by rw [codecDecode_whole op q c h]; rfl, frameBytes_whole op q c h⟩

theorem EncodesLegally.i2cEmpty (q c : Byte) : EncodesLegally.Statement (.i2cEmpty q c) :=
  fun _ _ => legalFrame 0 q c 0 [] rfl (by simp)

theorem EncodesLegally.gpioEmpty (q c : Byte) : EncodesLegally.Statement (.gpioEmpty q c) :=
  fun _ _ => legalFrame 1 q c 0 [] rfl (by simp)

theorem EncodesLegally.rsvdOp2 (q c : Byte) (p : List Byte) : EncodesLegally.Statement (.rsvdOp2 q c p) :=
  fun _ h => legalFrame 2 q c _ p rfl (of_decide_eq_true h)

theorem EncodesLegally.rsvdOp3 (q c : Byte) (p : List Byte) : EncodesLegally.Statement (.rsvdOp3 q c p) :=
  fun _ h => legalFrame 3 q c _ p rfl (of_decide_eq_true h)

theorem EncodesLegally.rsvdOp4 (q c : Byte) (p : List Byte) : EncodesLegally.Statement (.rsvdOp4 q c p) :=
  fun _ h => legalFrame 4 q c _ p rfl (of_decide_eq_true h)

theorem EncodesLegally.rsvdOp5 (q c : Byte) (p : List Byte) : EncodesLegally.Statement (.rsvdOp5 q c p) :=
  fun _ h => legalFrame 5 q c _ p rfl (of_decide_eq_true h)

theorem EncodesLegally.rsvdOp6 (q c : Byte) (p : List Byte) : EncodesLegally.Statement (.rsvdOp6 q c p) :=
  fun _ h => legalFrame 6 q c _ p rfl (of_decide_eq_true h)

theorem EncodesLegally.rsvdOp7 (q c : Byte) (p : List Byte) : EncodesLegally.Statement (.rsvdOp7 q c p) :=
  fun _ h => legalFrame 7 q c _ p rfl (of_decide_eq_true h)

theorem EncodesLegally.i2cReadShort (q c : Byte) (a : Addr7) : EncodesLegally.Statement (.i2cReadShort q c a) :=
  fun _ _ => legalFrame 0 q c 1 [(1 : BitVec 1) ++ a] rfl (by simp)

theorem EncodesLegally.i2cRead (q c : Byte) (a : Addr7) (u : BitVec 3) (n : BitVec 5) (l : List Byte) :
    EncodesLegally.Statement (.i2cRead q c a u n l) :=
  fun _ h => legalFrame 0 q c _ (((1 : BitVec 1) ++ a) :: (u ++ n) :: l) rfl (of_decide_eq_true h)

theorem EncodesLegally.i2cWrite (q c : Byte) (a : Addr7) (d : List Byte) :
    EncodesLegally.Statement (.i2cWrite q c a d) :=
  fun _ h => legalFrame 0 q c _ (((0 : BitVec 1) ++ a) :: d) rfl (of_decide_eq_true h)

theorem EncodesLegally.gpioRead (q c : Byte) (r : BitVec 1) (u : BitVec 2) (g : GroupId) (t : List Byte) :
    EncodesLegally.Statement (.gpioRead q c r u g t) :=
  fun _ h => legalFrame 1 q c _ ((r ++ u ++ g : BitVec 8) :: t) rfl
    (of_decide_eq_true ((Bool.and_eq_true _ _).mp h).2)

theorem EncodesLegally.gpioBadgroup (q c : Byte) (r : BitVec 1) (u : BitVec 2) (g : GroupId) (t : List Byte) :
    EncodesLegally.Statement (.gpioBadgroup q c r u g t) :=
  fun _ h => legalFrame 1 q c _ ((r ++ u ++ g : BitVec 8) :: t) rfl
    (of_decide_eq_true ((Bool.and_eq_true _ _).mp h).2)

theorem EncodesLegally.engWrite (a : Addr7) (d : List Byte) : EncodesLegally.Statement (.engWrite a d) :=
  fun _ _ => (by decide : (0x1 : BitVec 4) ≠ 0)

theorem EncodesLegally.engRead (a : Addr7) (n : Byte) : EncodesLegally.Statement (.engRead a n) :=
  fun _ _ => (by decide : (0x2 : BitVec 4) ≠ 0)

theorem EncodesLegally.evTxe : EncodesLegally.Statement .evTxe := fun _ _ => (by decide : (0x3 : BitVec 4) ≠ 0)

theorem EncodesLegally.evRxf (b : Byte) : EncodesLegally.Statement (.evRxf b) := fun _ _ => (by decide : (0x4 : BitVec 4) ≠ 0)

theorem EncodesLegally.evNack : EncodesLegally.Statement .evNack := fun _ _ => (by decide : (0x5 : BitVec 4) ≠ 0)

theorem EncodesLegally.evTimeout : EncodesLegally.Statement .evTimeout := fun _ _ => (by decide : (0x6 : BitVec 4) ≠ 0)

theorem EncodesLegally.peStopdone : EncodesLegally.Statement .peStopdone := fun _ _ => (by decide : (0x7 : BitVec 4) ≠ 0)

theorem EncodesLegally.linkOpen (ch : ChannelId) : EncodesLegally.Statement (.linkOpen ch) := fun _ _ => (by decide : (0x8 : BitVec 4) ≠ 0)

theorem EncodesLegally.linkClose : EncodesLegally.Statement .linkClose := fun _ _ => (by decide : (0x9 : BitVec 4) ≠ 0)

theorem EncodesLegally.frameDeliver (ch : ChannelId) (b : List Byte) : EncodesLegally.Statement (.frameDeliver ch b) :=
  fun _ _ => (by decide : (0xA : BitVec 4) ≠ 0)

theorem EncodesLegally.gpioPoll : EncodesLegally.Statement .gpioPoll := fun _ _ => (by decide : (0xB : BitVec 4) ≠ 0)

theorem EncodesLegally.codecEncode (op : OpType) (q c : Byte) (p : List Byte) :
    EncodesLegally.Statement (.codecEncode op q c p) := fun _ _ => (by decide : (0xC : BitVec 4) ≠ 0)

theorem EncodesLegally.codecDecode (b : List Byte) : EncodesLegally.Statement (.codecDecode b) := fun _ _ => (by decide : (0xD : BitVec 4) ≠ 0)

theorem EncodesLegally.gpioChange (v : Byte) : EncodesLegally.Statement (.gpioChange v) := fun _ _ => (by decide : (0xE : BitVec 4) ≠ 0)

theorem EncodesLegally.dispSend (op : OpType) (c : Byte) (p : List Byte) :
    EncodesLegally.Statement (.dispSend op c p) := fun _ _ => (by decide : (0xF : BitVec 4) ≠ 0)

end Sys2Proof.Laws
end

