-- ==== Sys2Proof/Laws/Seq.lean ====
section
/-! SUPPORT. What SEQ's steps can do: one lemma per phase (R32, R81, R84, R131), and how a command starts (R112, R113). -/
namespace Sys2Proof.Machine

/-! ### The step -/

/-- With SEQ chosen, SEQ takes its step. -/
theorem step_seq {s : State} {rest : List Slot} (hf : s.fault = []) (hi : s.inputs = .seq :: rest) :
    step s = seqStep s.advance := by
  simp [step, hf, State.fetch, hi]

/-- With no choice to come, SEQ takes its step. -/
theorem step_nil {s : State} (hf : s.fault = []) (hi : s.inputs = []) : step s = seqStep s.advance := by
  simp [step, hf, State.fetch, hi]

/-- With SEQ next, chosen or because no choice is to come, SEQ takes its step. -/
theorem step_seqIsNext {s : State} {rest : List Slot} (hf : s.fault = []) (hi : s.seqIsNext rest) :
    step s = seqStep { s with inputs := rest } := by
  rcases hi with hi | ⟨hi, rfl⟩ <;> simp [step, hf, State.fetch, hi, State.advance]

/-- What is fetched to run, runs. -/
theorem step_run {s : State} {i : Instr} (hf : s.fault = []) (hi : s.fetch = .run i) : step s = exec i s.advance := by
  simp [step, hf, hi]

/-- With nothing fetched the choice is taken, and that is all. -/
theorem step_nothing {s : State} (hf : s.fault = []) (hi : s.fetch = .nothing) : step s = .next s.advance := by
  simp [step, hf, hi]

/-- A step of PERIPH is its instruction where it is enabled, and no step elsewhere (R95 to R99). -/
theorem step_periph {s : State} {e : PeriphStep} {rest : List Slot} (hf : s.fault = []) (hi : s.inputs = .periph e :: rest) :
    step s = if periphEnabled e s then exec e.toInstr s.advance else .next s.advance := by
  have h : s.fetch = fetchPeriph e s := by simp [State.fetch, hi]
  cases he : periphEnabled e s
  · exact step_nothing hf (by simp [h, fetchPeriph, he])
  · exact step_run hf (by simp [h, fetchPeriph, he])

/-- When each step of PERIPH is enabled. -/
theorem periphEnabled_txe (s : State) : periphEnabled .txe s = true ↔ s.pOwe = .ackW ∨ s.pOwe = .ackR := by
  simp [periphEnabled]

theorem periphEnabled_nack (s : State) : periphEnabled .nack s = true ↔ s.pOwe = .ackW ∨ s.pOwe = .ackR := by
  simp [periphEnabled]

theorem periphEnabled_rxf (b : Byte) (s : State) : periphEnabled (.rxf b) s = true ↔ s.pOwe = .rx := by
  simp [periphEnabled]

theorem periphEnabled_stopdone (s : State) :
    periphEnabled .stopdone s = true ↔ s.pStopPending = true ∧ s.pOwe = .none := by
  simp [periphEnabled]

theorem advance_eq {s : State} {x : Slot} {rest : List Slot} (hi : s.inputs = x :: rest) :
    s.advance = { s with inputs := rest } := by
  simp [State.advance, hi]

/-- Inside an operation, SEQ's step goes on with it. -/
theorem seqStep_busy {s : State} (h : s.seqPhase ≠ .ready) : seqStep s = .next (resumeSeq s) := by
  cases hp : s.seqPhase <;> simp_all [seqStep]

/-- In READY with nothing kept, SEQ has no step. -/
theorem seqStep_idle {s : State} (hp : s.seqPhase = .ready) (hh : s.held = []) : seqStep s = .next s := by
  simp [seqStep, hp, hh, resumeSeq]

/-- In READY, SEQ runs the first operation kept. -/
theorem seqStep_kept {s : State} {i : Instr} {rest : List Instr} (hp : s.seqPhase = .ready) (hh : s.held = i :: rest) :
    seqStep s = runKept i rest s := by
  simp [seqStep, hp, hh]

/-- The next step's instruction is run as it stands, or run from the operations kept; else the step performs none. -/
theorem step_cases {s t : State} (h : step s = .next t) :
    s.fault = [] ∧
      ((∃ i, s.performs = some i ∧ exec i s.advance = .next t) ∨
        (∃ i rest, s.performs = some i ∧ s.seqPhase = .ready ∧ s.held = i :: rest ∧ runKept i rest s.advance = .next t) ∨
        s.performs = none ∧ (t = resumeSeq s.advance ∨ (∃ v, t = { s.advance with pinReg := v }) ∨ t = s.advance)) := by
  cases hf : s.fault with
  | cons f fs => rw [step, hf] at h; cases h
  | nil =>
    refine ⟨rfl, ?_⟩
    rw [step, hf] at h
    cases hs : s.fetch with
    | run i =>
      rw [hs] at h
      exact .inl ⟨i, by rw [State.performs, hs], h⟩
    | seq =>
      rw [hs] at h
      have hper : s.performs = if s.seqPhase = .ready then s.held.head? else none := by rw [State.performs, hs]
      rw [hper]
      by_cases hp : s.seqPhase = .ready
      · rw [if_pos hp]
        cases hh : s.held with
        | nil =>
          have h := (seqStep_idle (s := s.advance) hp hh).symm.trans h
          exact .inr (.inr ⟨rfl, .inr (.inr (by injection h with h; exact h.symm))⟩)
        | cons i rest =>
          exact .inr (.inl ⟨i, rest, rfl, hp, rfl, (seqStep_kept (s := s.advance) hp hh).symm.trans h⟩)
      · rw [if_neg hp]
        have h := (seqStep_busy (s := s.advance) hp).symm.trans h
        exact .inr (.inr ⟨rfl, .inl (by injection h with h; exact h.symm)⟩)
    | pins v =>
      rw [hs] at h
      exact .inr (.inr ⟨by rw [State.performs, hs], .inr (.inl ⟨v, by injection h with h; exact h.symm⟩)⟩)
    | nothing =>
      rw [hs] at h
      exact .inr (.inr ⟨by rw [State.performs, hs], .inr (.inr (by injection h with h; exact h.symm))⟩)

/-- Running a kept operation: what `exec` answers, with the later ones still kept. -/
theorem runKept_next {s t : State} {i : Instr} {rest : List Instr} (h : exec i { s with held := [] } = .next t) :
    runKept i rest s = .next { t with held := t.held ++ rest } := by
  simp only [runKept, h]

/-- An abort (R92, R94): the error is recorded, the transaction ends, and STOP has been requested. -/
theorem abort_eq (s : State) (e : EngErr) :
    s.abort e = { s with
      engErr := e, engState := .idle, engDone := true, engStopreq := true
      pStopPending := (if s.engStopreq = true then s.pStopPending else true)
      trace := s.trace ++ (if s.engStopreq = true then [] else [.stopReq]) } := by
  cases h : s.engStopreq <;> simp [State.abort, h, State.emitStop]

/-! ### The phases of `resumeSeq` -/

theorem leaveWait_waiting {k : CallResult → State → Except Fault State} {s : State} (h : s.engDone = false) :
    leaveWait k s = s := by
  simp [leaveWait, h]

theorem leaveWait_done {k : CallResult → State → Except Fault State} {s : State} {r : CallResult}
    (h : s.engDone = true) (hr : engResult s = .ok r) : leaveWait k s = commit s (k r s) := by
  simp [leaveWait, h, hr]

theorem leaveWait_fault {k : CallResult → State → Except Fault State} {s : State} {f : Fault}
    (h : s.engDone = true) (hr : engResult s = .error f) : leaveWait k s = s.enterFault f := by
  simp [leaveWait, h, hr]

theorem resumeSeq_wWait {s : State} {r : CallResult} (hp : s.seqPhase = .wWait) (h : s.engDone = true)
    (hr : engResult s = .ok r) : resumeSeq s = finishWrite r s := by
  simp only [resumeSeq, hp, leaveWait_done h hr, commit_ok]

theorem resumeSeq_selWait {s : State} {r : CallResult} (hp : s.seqPhase = .selWait) (h : s.engDone = true)
    (hr : engResult s = .ok r) : resumeSeq s = commit s (finishSelect r s) := by
  simp only [resumeSeq, hp, leaveWait_done h hr]

theorem resumeSeq_rdWait {s : State} {r : CallResult} (hp : s.seqPhase = .rdWait) (h : s.engDone = true)
    (hr : engResult s = .ok r) : resumeSeq s = finishRead r s := by
  simp only [resumeSeq, hp, leaveWait_done h hr, commit_ok]

theorem resumeSeq_callWait {s : State} {r : CallResult} (hp : s.seqPhase = .callWait) (h : s.engDone = true)
    (hr : engResult s = .ok r) : resumeSeq s = finishCall r s := by
  simp only [resumeSeq, hp, leaveWait_done h hr, commit_ok]

theorem resumeSeq_rdWait_fault {s : State} {f : Fault} (hp : s.seqPhase = .rdWait) (h : s.engDone = true)
    (hr : engResult s = .error f) : resumeSeq s = s.enterFault f := by
  simp only [resumeSeq, hp, leaveWait_fault h hr]

theorem resumeSeq_callWait_fault {s : State} {f : Fault} (hp : s.seqPhase = .callWait) (h : s.engDone = true)
    (hr : engResult s = .error f) : resumeSeq s = s.enterFault f := by
  simp only [resumeSeq, hp, leaveWait_fault h hr]

theorem resumeSeq_stopHold {s t : State} (hp : s.seqPhase = .stopHold) (h : s.pStopPending = false)
    (ht : s.arm s.dispCtx.pending = .ok t) : resumeSeq s = t.setPhase s.dispCtx.resume := by
  simp [resumeSeq, hp, h, ht]

/-- While SEQ's condition does not hold, it stays where it is (R81, R131). -/
theorem resumeSeq_waiting {s : State} (hd : s.engDone = false) (hs : s.seqPhase = .stopHold → s.pStopPending = true) :
    resumeSeq s = s := by
  cases hp : s.seqPhase <;> simp_all [resumeSeq, leaveWait]

/-- The result of a call, in every state in which the bytes of a good read are known (R84). -/
theorem engResult_eq {s : State} {bytes : List Byte}
    (h : s.engErr = .none → s.engDir = .r →
      bytes.length = s.engLen.toNat ∧ ∀ j < s.engLen.toNat, s.engBuf.get j = bytes[j]?) :
    engResult s = .ok (match s.engErr with
      | .noack => .err .noAck
      | .timeout => .err .timeout
      | .none => match s.engDir with | .w => .okWrite | .r => .okRead bytes) := by
  rcases he : s.engErr with _ | _ | _
  · rcases hd : s.engDir with _ | _
    · exact engResult_write he hd
    · exact engResult_read he hd (h he hd).1 (h he hd).2
  · exact engResult_err (by rw [he]; rfl)
  · exact engResult_err (by rw [he]; rfl)

/-! ### How an engine call starts -/

/-- A call with data and no STOP pending arms the engine for a write and waits in `p`. -/
theorem engCall_write_arms {p : SeqPhase} {s : State} {a : Addr7} {data : List Byte} (h : s.engState = .idle)
    (h0 : 0 < data.length) (hm : data.length ≤ 255) (hs : s.pStopPending = false) :
    ∃ t, engCall p (.write a data) s = .ok (.waiting t) ∧ armsWrite { s with seqPhase := p } a data t := by
  obtain ⟨t, ht, ⟨buf, hb, rfl⟩, _⟩ := arm_write (s := s) (a := a) (data := data) hm
  exact ⟨_, engCall_arms h (Nat.ne_of_gt h0) hm hs ht, buf, hb, rfl⟩

/-- A read of at least one byte, with no STOP pending, arms the engine and waits in `p`. -/
theorem engCall_read_arms {p : SeqPhase} {s : State} {a : Addr7} {n : Byte} (h : s.engState = .idle) (h0 : n ≠ 0)
    (hs : s.pStopPending = false) :
    ∃ t, engCall p (.read a n) s = .ok (.waiting t) ∧ armsRead { s with seqPhase := p } a n t := by
  obtain ⟨t, ht, h2⟩ := arm_read s a n
  have hn : (Call.read a n).length ≠ 0 := fun h => h0 (BitVec.eq_of_toNat_eq (by simpa [Call.length] using h))
  have hm : (Call.read a n).length ≤ maxXfer := by have := n.isLt; simp only [Call.length, maxXfer]; omega
  refine ⟨_, engCall_arms h hn hm hs ht, ?_⟩
  unfold armsRead at h2
  subst h2
  rfl

/-- A write of no bytes returns at once. -/
theorem engCall_write_empty {p : SeqPhase} {s : State} (a : Addr7) (h : s.engState = .idle) :
    engCall p (.write a []) s = .ok (.returned .okWrite s) := engCall_zero h rfl

/-- A read of no bytes returns at once. -/
theorem engCall_read_zero {p : SeqPhase} {s : State} (a : Addr7) (n : Byte) (h : s.engState = .idle) (hn : n = 0) :
    engCall p (.read a n) s = .ok (.returned (.okRead []) s) := engCall_zero h (by simp [Call.length, hn])

/-! ### Direct calls -/

theorem directCall_busy {i : Instr} {c : Call} {s : State} (h : s.engState ≠ .idle) :
    directCall i c s = s.enterFault .engineBusy := by
  simp [directCall, h]

theorem directCall_waiting {i : Instr} {c : Call} {s t : State} (h : s.engState = .idle) (hp : s.seqPhase = .ready)
    (hh : s.held = []) (ht : engCall .callWait c s = .ok (.waiting t)) : directCall i c s = t := by
  simp [directCall, h, State.seqFree, hp, hh, ht]

theorem directCall_returned {i : Instr} {c : Call} {s t : State} {r : CallResult} (h : s.engState = .idle)
    (hp : s.seqPhase = .ready) (hh : s.held = []) (ht : engCall .callWait c s = .ok (.returned r t)) :
    directCall i c s = t.giveBack (.call r) := by
  simp [directCall, h, State.seqFree, hp, hh, ht]

/-! ### Frame commands -/

/-- A frame command is run by the same meaning as an instruction of its own and inside a delivery. -/
theorem exec_toInstr (c : FrameCmd) (s : State) : exec c.toInstr s = whenReady c.toInstr (runCommand c) s := by
  cases c <;> rfl

end Sys2Proof.Machine
end

