-- ==== Sys2Proof/Tests/Slice0.lean ====
section
/-! SUPPORT. Tests. Expected values are the spec's: its encoding tables (R58 to R75) and its test vectors (95_test_vectors.md;
each test names its vector or rule). The witnesses show states and operands that meet the hypotheses of the statements. -/
namespace Sys2Proof.Tests
open Sys2Proof.Machine

/-! ### Well-formedness: each check refuses an ill-formed term -/

theorem test_wf_rsvdOp2 : (Instr.rsvdOp2 0 0 (List.replicate 29 0)).wellFormed Params.default = false := by decide
theorem test_wf_rsvdOp3 : (Instr.rsvdOp3 0 0 (List.replicate 29 0)).wellFormed Params.default = false := by decide
theorem test_wf_rsvdOp4 : (Instr.rsvdOp4 0 0 (List.replicate 29 0)).wellFormed Params.default = false := by decide
theorem test_wf_rsvdOp5 : (Instr.rsvdOp5 0 0 (List.replicate 29 0)).wellFormed Params.default = false := by decide
theorem test_wf_rsvdOp6 : (Instr.rsvdOp6 0 0 (List.replicate 29 0)).wellFormed Params.default = false := by decide
theorem test_wf_rsvdOp7 : (Instr.rsvdOp7 0 0 (List.replicate 29 0)).wellFormed Params.default = false := by decide
theorem test_wf_i2cRead : (Instr.i2cRead 0 0 0 0 0 (List.replicate 27 0)).wellFormed Params.default = false := by decide
theorem test_wf_i2cWrite : (Instr.i2cWrite 0 0 0 (List.replicate 28 0)).wellFormed Params.default = false := by decide
theorem test_wf_gpioRead_group : (Instr.gpioRead 0 0 0 0 3 []).wellFormed Params.default = false := by decide
theorem test_wf_gpioRead_length : (Instr.gpioRead 0 0 0 0 2 (List.replicate 28 0)).wellFormed Params.default = false := by decide
theorem test_wf_gpioBadgroup_group : (Instr.gpioBadgroup 0 0 0 0 2 []).wellFormed Params.default = false := by decide
theorem test_wf_gpioBadgroup_length :
    (Instr.gpioBadgroup 0 0 0 0 3 (List.replicate 28 0)).wellFormed Params.default = false := by decide
theorem test_wf_engWrite : (Instr.engWrite 0 (List.replicate 256 0)).wellFormed Params.default = false := by
  rw [Instr.wellFormed, List.length_replicate]
  decide

theorem test_wf_linkOpen : (Instr.linkOpen 2).wellFormed { Params.default with channelIds := some 2 } = false := by decide
theorem test_wf_frameDeliver : (Instr.frameDeliver 2 []).wellFormed { Params.default with channelIds := some 2 } = false := by
  decide

/-! ### The decode table is R74's -/

/-- The masks and matches of rows 9 to 13, as R74 prints them. -/
theorem test_frameTable_words :
    ((frameTable [2]).drop 8).map (fun r => (r.mask16, r.match16)) =
      [(some 0xFF80, some 0x0480), (some 0xE080, some 0x0080), (some 0xE080, some 0x0000),
       (some 0xE01F, some 0x2002), (some 0xE000, some 0x2000)] := by decide

/-- The masks and matches of rows 1 to 8. -/
theorem test_frameTable_headers :
    ((frameTable [2]).take 8).map (fun r => (r.hdrMask, r.hdrMatch)) =
      [(0xFF, 0x03), (0xFF, 0x23), (0xE0, 0x40), (0xE0, 0x60), (0xE0, 0x80), (0xE0, 0xA0), (0xE0, 0xC0), (0xE0, 0xE0)] := by
  decide

/-! ### Decoding: for every constructor a word written out from the spec's encoding of it -/

theorem test_decode_i2cEmpty : decode Params.default (.frame [0x03, 0x05, 0xFF]) = .ok (.i2cEmpty 0x05 0xFF) := by decide
theorem test_decode_gpioEmpty : decode Params.default (.frame [0x23, 0x05, 0xFF]) = .ok (.gpioEmpty 0x05 0xFF) := by decide
theorem test_decode_rsvdOp2 : decode Params.default (.frame [0x43, 0x05, 0xFF]) = .ok (.rsvdOp2 0x05 0xFF []) := by decide
theorem test_decode_rsvdOp3 : decode Params.default (.frame [0x64, 1, 2, 0x99]) = .ok (.rsvdOp3 1 2 [0x99]) := by decide
theorem test_decode_rsvdOp4 : decode Params.default (.frame [0x85, 1, 2, 3, 4]) = .ok (.rsvdOp4 1 2 [3, 4]) := by decide
theorem test_decode_rsvdOp5 : decode Params.default (.frame [0xA3, 1, 2]) = .ok (.rsvdOp5 1 2 []) := by decide
theorem test_decode_rsvdOp6 : decode Params.default (.frame [0xC4, 1, 2, 0x80]) = .ok (.rsvdOp6 1 2 [0x80]) := by decide
theorem test_decode_rsvdOp7 : decode Params.default (.frame [0xE4, 0x05, 0xFF, 0]) = .ok (.rsvdOp7 0x05 0xFF [0]) := by decide
theorem test_decode_i2cReadShort : decode Params.default (.frame [0x04, 1, 0xFF, 0xD0]) = .ok (.i2cReadShort 1 0xFF 0x50) := by decide
theorem test_decode_i2cRead :
    decode Params.default (.frame [0x07, 7, 0xFF, 0xD0, 0xE2, 0x10, 0x11]) = .ok (.i2cRead 7 0xFF 0x50 7 2 [0x10, 0x11]) := by decide
theorem test_decode_i2cWrite :
    decode Params.default (.frame [0x06, 1, 0xFF, 0x3C, 0xAA, 0xBB]) = .ok (.i2cWrite 1 0xFF 0x3C [0xAA, 0xBB]) := by decide
theorem test_decode_gpioRead : decode Params.default (.frame [0x24, 0x0C, 0xFF, 0xE2]) = .ok (.gpioRead 0x0C 0xFF 1 3 2 []) := by decide
theorem test_decode_gpioBadgroup :
    decode Params.default (.frame [0x25, 0x0A, 0xFF, 0x83, 7]) = .ok (.gpioBadgroup 0x0A 0xFF 1 0 3 [7]) := by decide
theorem test_decode_engWrite :
    decode Params.default (.ifc { opc := 0x1, addr := 0x3C, bytes := [0xAA] }) = .ok (.engWrite 0x3C [0xAA]) := by decide
theorem test_decode_engRead : decode Params.default (.ifc { opc := 0x2, addr := 0x50, arg := 3 }) = .ok (.engRead 0x50 3) := by decide
theorem test_decode_evTxe : decode Params.default (.ifc { opc := 0x3 }) = .ok .evTxe := by decide
theorem test_decode_evRxf : decode Params.default (.ifc { opc := 0x4, arg := 0x5A }) = .ok (.evRxf 0x5A) := by decide
theorem test_decode_evNack : decode Params.default (.ifc { opc := 0x5 }) = .ok .evNack := by decide
theorem test_decode_evTimeout : decode Params.default (.ifc { opc := 0x6 }) = .ok .evTimeout := by decide
theorem test_decode_peStopdone : decode Params.default (.ifc { opc := 0x7 }) = .ok .peStopdone := by decide
theorem test_decode_linkOpen : decode Params.default (.ifc { opc := 0x8, chan := 7 }) = .ok (.linkOpen 7) := by decide
theorem test_decode_linkClose : decode Params.default (.ifc { opc := 0x9 }) = .ok .linkClose := by decide
theorem test_decode_frameDeliver :
    decode Params.default (.ifc { opc := 0xA, chan := 7, bytes := [0x02] }) = .ok (.frameDeliver 7 [0x02]) := by decide
theorem test_decode_gpioPoll : decode Params.default (.ifc { opc := 0xB }) = .ok .gpioPoll := by decide
theorem test_decode_codecEncode :
    decode Params.default (.ifc { opc := 0xC, op := 1, seq := 0, corr := 0xFF, bytes := [2, 0xA] }) =
      .ok (.codecEncode 1 0 0xFF [2, 0xA]) := by decide
theorem test_decode_codecDecode :
    decode Params.default (.ifc { opc := 0xD, bytes := [0x24, 9, 0xFF, 0x82] }) = .ok (.codecDecode [0x24, 9, 0xFF, 0x82]) := by decide
theorem test_decode_gpioChange : decode Params.default (.ifc { opc := 0xE, arg := 5 }) = .ok (.gpioChange 5) := by decide
theorem test_decode_dispSend :
    decode Params.default (.ifc { opc := 0xF, op := 1, corr := 0xFF, bytes := [2, 0xF] }) = .ok (.dispSend 1 0xFF [2, 0xF]) := by decide

/-- Refused by name: the reserved interface code (R75), a handle that is not of CHANNEL_ID (R7), and what is no frame (R59, R105):
fewer than 3 bytes, the frame of S5, and a length below 3. -/
theorem test_decode_refused :
    decode Params.default (.ifc { opc := 0 }) = .error .reservedOpc ∧
    decode { Params.default with channelIds := some 2 } (.ifc { opc := 8, chan := 2 }) = .error .noChannel ∧
    decode Params.default (.frame [0x03, 0]) = .error .truncated ∧
    decode Params.default (.frame [0x05, 0x00, 0xFF, 0x00]) = .error .truncated ∧
    decode Params.default (.frame [0x02, 0x00, 0xFF, 0x00]) = .error .truncated := by decide

/-- R74: a FRAME16 row is tested only on a frame with `L` of 4 or more, not on a byte beyond the frame. -/
theorem test_decode_frame16_needs_p0 :
    decode Params.default (.frame [0x03, 1, 0xFF, 0x3C]) = .ok (.i2cEmpty 1 0xFF) ∧
    decode Params.default (.frame [0x01, 1, 0xFF, 0x3C]) = .error .truncated := by decide

/-- A request line of R76, and the bytes beyond the declared length, which are ignored (R72). -/
theorem test_notation :
    i2cRdNotation 7 0x50 2 [0x10] = some [0x06, 0x07, 0xFF, 0xD0, 0x02, 0x10] ∧
    decode Params.default (.frame [0x05, 1, 0xFF, 0x3C, 0xAA, 0xBB]) = .ok (.i2cWrite 1 0xFF 0x3C [0xAA]) := by decide

/-- Words of the opcode table, numbered as it numbers them. -/
theorem test_tableWords :
    decodeTableWord 8 0x23 = some (.gpioEmpty 0 0) ∧ decodeTableWord 16 0x0480 = some (.i2cReadShort 0 0 0) ∧
      decodeTableWord 8 0x09 = some .linkClose ∧
      decodeTableWord 8 0x40 = some (.rsvdOp2 0 0 (List.replicate 28 0)) ∧
      decodeTableWord 16 0x0000 = some (.i2cWrite 0 0 0 (List.replicate 27 0)) := by decide

/-! ### One step each -/

/-- After reset and `HOST OPEN 1`, the start of the vectors. -/
def up : State := { State.reset with linkConnected := true, linkChannel := 1 }

/-- A write transaction of [01 02 03] to 3C in ADDR. -/
def writing : State :=
  { up with
    engState := .addr, engDir := .w, engAddr := 0x3C, engLen := 3, engRem := 3, engBuf := [(0, 1), (1, 2), (2, 3)]
    pOwe := .ackW, seqPhase := .callWait }

/-- A read transaction of `n` bytes from 50 in ADDR. -/
def reading (n : Byte) : State :=
  { up with
    engState := .addr, engDir := .r, engAddr := 0x50, engLen := n, engRem := n, pOwe := .ackR, seqPhase := .callWait }

/-- The next state of an instruction, seen through `f`. -/
def after {α : Type} (i : Instr) (s : State) (f : State → α) : Option α :=
  match exec i s with
  | .next t => some (f t)
  | .fault _ => none
  | .refused _ => none

/-- V-D4. -/
theorem test_i2cEmpty : after (.i2cEmpty 5 0xFF) up (·.trace) = some [.dropRx .malformed] := by decide
theorem test_gpioEmpty : after (.gpioEmpty 5 0xFF) up (·.trace) = some [.dropRx .malformed] := by decide
/-- V-D2, V-D3, and R110 for the other reserved types. -/
theorem test_rsvdOp2 : after (.rsvdOp2 5 0xFF []) up (·.trace) = some [.dropRx .unknownOpType] := by decide
theorem test_rsvdOp3 : after (.rsvdOp3 5 0xFF [1]) up (·.ownseq) = some 0 := by decide
theorem test_rsvdOp4 : after (.rsvdOp4 5 0xFF [1]) up (·.trace) = some [.dropRx .unknownOpType] := by decide
theorem test_rsvdOp5 : after (.rsvdOp5 5 0xFF []) up (·.trace) = some [.dropRx .unknownOpType] := by decide
theorem test_rsvdOp6 : after (.rsvdOp6 5 0xFF []) up (·.trace) = some [.dropRx .unknownOpType] := by decide
theorem test_rsvdOp7 : after (.rsvdOp7 5 0xFF [0]) up (·.trace) = some [.dropRx .unknownOpType] := by decide
/-- V-D7. -/
theorem test_i2cReadShort : after (.i2cReadShort 1 0xFF 0x50) up (·.trace) = some [.dropRx .malformed] := by decide
/-- P1: the select write starts. -/
theorem test_i2cRead_select : after (.i2cRead 7 0xFF 0x50 0 2 [0x10]) up (fun t => (t.trace, t.seqPhase)) =
    some ([.start 0xA0], .selWait) := by decide
/-- V-D10. -/
theorem test_i2cRead_nothing : after (.i2cRead 8 0xFF 0x50 0 0 []) up (·.trace) =
    some [.send 1 [0x05, 0x00, 0x08, 0xD0, 0x00]] := by decide
/-- P2: the address byte. -/
theorem test_i2cWrite : after (.i2cWrite 1 0xFF 0x3C [0xAA, 0xBB]) up (fun t => (t.trace, t.engRem)) =
    some ([.start 0x78], 2) := by decide
/-- V-D6. -/
theorem test_i2cWrite_empty : after (.i2cWrite 6 0xFF 0x3C []) up (·.trace) =
    some [.send 1 [0x05, 0x00, 0x06, 0x3C, 0x00]] := by decide
/-- V-D16. -/
theorem test_gpioRead : after (.gpioRead 0x0C 0xFF 1 3 2 []) { up with pinReg := 0xF0 } (·.trace) =
    some [.send 1 [0x25, 0x00, 0x0C, 0x02, 0x0F]] := by decide
/-- V-D14. -/
theorem test_gpioBadgroup : after (.gpioBadgroup 0x0A 0xFF 1 0 3 []) up (·.trace) =
    some [.send 1 [0x25, 0x00, 0x0A, 0x03, 0x40]] := by decide
/-- V-E6: the address byte. -/
theorem test_engWrite : after (.engWrite 0 [0xD0]) up (·.trace) = some [.start 0x00] := by decide
/-- V-E13. -/
theorem test_engWrite_busy : after (.engWrite 0x3C [0xAA]) writing (·.fault) = some [.engineBusy] := by decide
/-- V-E7: the address byte, and what the peripheral then owes (R25). -/
theorem test_engRead : after (.engRead 0x7F 2) up (fun t => (t.trace, t.pOwe)) = some ([.start 0xFF], .ackR) := by decide
/-- V-E14: the call waits for the STOP. -/
theorem test_engRead_gate : after (.engRead 0x3C 1) { up with pStopPending := true } (fun t => (t.trace, t.seqPhase)) =
    some ([], .stopHold) := by decide
/-- V-E3: the first data byte; `eng_rem` stays 3. -/
theorem test_evTxe_write : after .evTxe writing (fun t => (t.trace, t.engRem, t.engState)) =
    some ([.evTxe, .tx 1], 3, .xfer) := by decide
/-- S4: STOP is requested before the only byte. -/
theorem test_evTxe_read1 : after .evTxe (reading 1) (fun t => (t.trace, t.engState, t.pOwe)) =
    some ([.evTxe, .stopReq], .compl, .rx) := by decide
/-- S4: byte 2 of 3 requests STOP. -/
theorem test_evRxf : after (.evRxf 0x22) { reading 3 with engState := .xfer, engIdx := 1, engRem := 2, pOwe := .rx }
    (fun t => (t.trace, t.engState, t.engBuf)) = some ([.evRxf 0x22, .stopReq], .compl, [(1, 0x22)]) := by decide
/-- V-E12. -/
theorem test_evRxf_unexpected : after (.evRxf 0x5A) writing (fun t => (t.engUnexp, t.engState)) = some (true, .addr) := by
  decide
/-- V-E4. -/
theorem test_evNack : after .evNack writing (fun t => (t.trace, t.engErr, t.engRem)) =
    some ([.evNack, .stopReq], .noack, 3) := by decide
/-- V-E10: no second STOP. -/
theorem test_evNack_stopped : after .evNack
    { reading 2 with engState := .compl, engIdx := 1, engRem := 1, engStopreq := true, pStopPending := true, pOwe := .rx }
    (fun t => (t.trace, t.engState)) = some ([.evNack], .idle) := by decide
/-- V-E15. -/
theorem test_evTimeout : after .evTimeout { writing with params := { Params.default with watchdog := .enabled } }
    (fun t => (t.trace, t.engErr, t.pOwe)) = some ([.evTimeout, .stopReq], .timeout, .none) := by decide
/-- R94: without the watchdog the step does not exist. -/
theorem test_evTimeout_absent : after .evTimeout writing (·.trace) = some [] := by decide
/-- V-E14: STOP reaches the bus. -/
theorem test_peStopdone : after .peStopdone { up with pStopPending := true } (fun t => (t.trace, t.pStopPending)) =
    some ([.stopDone], false) := by decide
/-- S4: not before the byte still owed. -/
theorem test_peStopdone_owed : after .peStopdone { up with pStopPending := true, pOwe := .rx } (·.pStopPending) =
    some true := by decide
/-- V-D23. -/
theorem test_linkOpen : after (.linkOpen 2) up (·.linkChannel) = some 2 := by decide
/-- R108. -/
theorem test_linkClose : after .linkClose up (·.linkConnected) = some false := by decide
/-- V-D1. -/
theorem test_frameDeliver_short : after (.frameDeliver 1 [0x02]) up (·.trace) = some [.dropRx .truncated] := by decide
/-- S5: the frame as the source prints it. -/
theorem test_frameDeliver_truncated : after (.frameDeliver 1 [0x05, 0x00, 0xFF, 0x00]) up (·.trace) =
    some [.dropRx .truncated] := by decide
/-- V-G2. -/
theorem test_gpioPoll : after .gpioPoll { up with pinReg := 0x05 } (fun t => (t.trace, t.gpioLast)) =
    some ([.send 1 [0x25, 0x00, 0xFF, 0x02, 0x0A]], 0x05) := by decide
/-- V-G3. -/
theorem test_gpioPoll_masked : after .gpioPoll { up with pinReg := 0xF5, gpioLast := 0x05 } (·.trace) = some [] := by decide
/-- V-C2. -/
theorem test_codecEncode : after (.codecEncode 7 1 2 []) up (·.returns) = some [.encoded [0xE3, 1, 2]] := by decide
/-- V-C6. -/
theorem test_codecEncode_overflow : after (.codecEncode 0 0 0 (List.replicate 29 0)) up (·.returns) =
    some [.encodeOverflow 29] := by decide
/-- V-C12. -/
theorem test_codecDecode : after (.codecDecode [0x03, 0, 0, 0xAA, 0xBB]) up (·.returns) =
    some [.decoded { opType := 0, seq := 0, corr := 0, payload := [] }] := by decide
/-- V-C10. -/
theorem test_codecDecode_short : after (.codecDecode [0x02, 0, 0]) up (·.returns) = some [.truncated] := by decide
/-- V-G8: the request bit. -/
theorem test_gpioChange : after (.gpioChange 5) { up with params := { Params.default with unsolSetReqBit := true } }
    (·.trace) = some [.send 1 [0x25, 0x00, 0xFF, 0x82, 0x0A]] := by decide
/-- The example of R117. -/
theorem test_dispSend : after (.dispSend 1 0xFF [2, 0x0F]) { up with ownseq := 254 } (fun t => (t.trace, t.ownseq)) =
    some ([.send 1 [0x25, 0xFE, 0xFF, 0x02, 0x0F]], 0) := by decide
/-- V-D21. -/
theorem test_dispSend_closed : after (.dispSend 1 0xFF [2, 0x0F]) State.reset (fun t => (t.trace, t.ownseq)) =
    some ([.dropTx .disconnected], 0) := by decide

/-- V-D12: the answer of a read whose select failed and whose read did not. -/
theorem test_resume_read :
    (resumeSeq { up with
      seqPhase := .rdWait, engDir := .r, engLen := 2, engDone := true, engBuf := [(0, 0x12), (1, 0x34)]
      dispCtx := { DispCtx.reset with rseq := 0x40, addr := 0x50, sel := [0x10], rlen := 2, wok := false } }).trace =
      [.send 1 [0x08, 0x00, 0x40, 0xD0, 0x42, 0x10, 0x12, 0x34]] := by decide

/-- A word presented after reset is run by the very next step (log 8). -/
theorem test_withFetchWord :
    (match step (State.reset.withFetchWord 8 0x23) with
      | .next t => some t.trace
      | .fault _ => none
      | .refused _ => none) = some [.dropRx .malformed] := by decide

/-- The next state of a step with the choice `x`, seen through `f`. -/
def afterChoice {α : Type} (x : Slot) (s : State) (f : State → α) : Option α :=
  match step { s with inputs := [x] } with
  | .next t => some (f t)
  | .fault _ => none
  | .refused _ => none

/-- R98: while an acknowledge is owed PERIPH has no PE_RXF; presented past PERIPH the event is injected (V-E12). -/
theorem test_periph_rx :
    afterChoice (periphRx 0x5A) writing (fun t => (t.trace, t.engUnexp)) = some ([], false) ∧
    afterChoice (.port (encode (.evRxf 0x5A))) writing (fun t => (t.trace, t.engUnexp)) = some ([.evRxf 0x5A], true) := by
  decide

/-- R96: an owed acknowledge is reported (V-E3). -/
theorem test_periph_ack : afterChoice periphAck writing (·.trace) = some [.evTxe, .tx 1] := by decide

/-- S5, presented as a frame: dropped silently. -/
theorem test_frame_truncated : afterChoice (.port (.frame [0x05, 0x00, 0xFF, 0x00])) up (·.trace) =
    some [.dropRx .truncated] := by decide

/-! ### Witnesses: states and operands that meet the hypotheses of the statements, at boundary values -/

/-- A read's last byte is owed, STOP requested. -/
def lastByte : State :=
  { reading 2 with
    engState := .compl, engIdx := 1, engRem := 1, engStopreq := true, pStopPending := true, pOwe := .rx
    engBuf := [(0, 0x11)] }

/-- Data of the greatest length a call takes. -/
def longest : List Byte := List.replicate 255 0x5A

theorem longest_length : longest.length = 255 := List.length_replicate

/-- A transaction that has ended, with SEQ waiting in `p`. -/
def ended (p : SeqPhase) (d : Dir) : State :=
  { up with seqPhase := p, engDir := d, engDone := true, inputs := [.seq] }

theorem witness_DecodeOfEncodeIsTheInstruction :
    (Instr.i2cWrite 1 0xFF 0x3C (List.replicate 27 0xAA)).wellFormed Params.default = true ∧
      (Instr.rsvdOp7 1 2 (List.replicate 28 0)).wellFormed { Params.default with supportedGroups := [] } = true ∧
      (Instr.gpioRead 1 2 1 3 31 (List.replicate 27 9)).wellFormed { Params.default with supportedGroups := [31] } = true ∧
      Instr.linkClose.wellFormed Params.default = true := by decide

theorem witness_AcceptedFrameIsACommand :
    codecDecode [0x05, 0x00, 0xFF, 0x00] = none ∧
    codecDecode [0x24, 0x09, 0xFF, 0x82] = some { opType := 1, seq := 9, corr := 0xFF, payload := [0x82] } ∧
      codecDecode [0x03, 0, 0] = some { opType := 0, seq := 0, corr := 0, payload := [] } := by decide

theorem witness_CodecLaws :
    (List.replicate 28 (0 : Byte)).length + 3 ≤ 31 ∧ ([] : List Byte).length + 3 ≤ 3 ∧
      (List.replicate 28 (0 : Byte)).length ≤ 28 ∧ (List.replicate 29 (0 : Byte)).length = 29 ∧
      (codecDecode [0x03, 0, 0]).isSome = true := by decide

theorem witness_CodecHandsBackItsValue : ([0x03, 0x00] : List Byte).length < 3 := by decide

theorem witness_StepRunsTheDecodedInstruction :
    let s := { up with inputs := [.port (.frame [0x23, 0, 0])] }
    s.fault = [] ∧ s.inputs = .port (.frame [0x23, 0, 0]) :: [] ∧
      decode s.params (.frame [0x23, 0, 0]) = .ok (.gpioEmpty 0 0) := by decide

theorem witness_FaultedStateIsNeverLeft :
    ({ up with fault := [.engineBusy] } : State).fault = .engineBusy :: [] := rfl

theorem witness_OtherChoicesOfTheInputList :
    up.fault = [] ∧ ({ up with inputs := [.port (.ifc { opc := 0 })] } : State).inputs = .port (.ifc { opc := 0 }) :: [] ∧
      ({ up with params := { Params.default with channelIds := some 2 } } : State).params.channelIds = some 2 ∧
      2 ≤ ({ opc := 8, chan := 2 } : IfcWord).chan ∧
      ({ up with inputs := [.pins 5] } : State).inputs = .pins 5 :: [] ∧
      ({ up with inputs := [.port (.frame [3, 0])] } : State).inputs = .port (.frame [3, 0]) :: [] ∧
      codecDecode [3, 0] = none ∧ codecDecode [0x05, 0x00, 0xFF, 0x00] = none ∧ up.seqPhase = .ready ∧ up.held = [] ∧
      ({ writing with inputs := [.periph .txe] } : State).inputs = .periph .txe :: [] ∧ writing.pOwe = .ackW ∧
      (reading 1).pOwe = .ackR ∧ lastByte.pOwe = .rx ∧ up.pOwe = .none ∧
      ({ up with pStopPending := true, inputs := [.periph .stopdone] } : State).pStopPending = true := by decide

theorem witness_SeqOperationsWaitTheirTurn :
    writing.seqPhase ≠ .ready ∧ ({ up with held := [.gpioPoll] } : State).held ≠ [] ∧
      ({ up with held := [.gpioPoll] } : State).engState = .idle := by decide

theorem witness_SeqRunsTheFirstKeptOperation :
    let s := { up with inputs := [.seq], held := [.gpioPoll, .gpioEmpty 1 2] }
    s.fault = [] ∧ s.seqIsNext [] ∧ ({ s with inputs := [] } : State).seqIsNext [] ∧ s.seqPhase = .ready ∧
      s.held = .gpioPoll :: [.gpioEmpty 1 2] ∧ ∃ t, exec .gpioPoll { s with inputs := [], held := [] } = .next t :=
  ⟨rfl, .inl rfl, .inr ⟨rfl, rfl⟩, rfl, rfl, _, rfl⟩

theorem witness_SeqIsHeldInItsWaits :
    let s := { writing with inputs := [.seq] }
    s.fault = [] ∧ s.seqIsNext [] ∧ s.seqPhase = .callWait ∧ s.engDone = false ∧
      up.fault = [] ∧ up.seqIsNext [] ∧ up.engDone = false ∧
      ({ up with seqPhase := .stopHold, pStopPending := true } : State).seqPhase = .stopHold ∧
      ({ up with seqPhase := .wWait } : State).seqPhase = .wWait ∧
      ({ up with seqPhase := .selWait } : State).seqPhase = .selWait ∧
      ({ up with seqPhase := .rdWait } : State).seqPhase = .rdWait := by decide

theorem witness_ResetMeetsTheInvariant :
    Params.default.legal = true ∧ ({ Params.default with maxFrame := 3 } : Params).legal = true ∧
      ({ Params.default with gpioSnapshotInit := 0x0F } : Params).legal = true := by decide

theorem writing_inv : writing.Inv := by
  simp [State.Inv, State.rangesOk, State.engineOk, State.bufferOk, State.seqOk, State.inCall, State.written, writing, up,
    State.reset, State.resetWith, Params.default, seqMod, Memory.get]
  refine ⟨⟨rfl, by unfold Memory.wf; decide⟩, ?_, by unfold State.heldOk; decide⟩
  intro i hi
  have : i = 0 ∨ i = 1 ∨ i = 2 := by omega
  rcases this with rfl | rfl | rfl <;> rfl

theorem lastByte_inv : lastByte.Inv := by
  simp [State.Inv, State.rangesOk, State.engineOk, State.bufferOk, State.seqOk, State.inCall, State.written, lastByte,
    reading, up, State.reset, State.resetWith, Params.default, seqMod, Memory.get]
  exact ⟨⟨rfl, by decide⟩, fun _ h => nomatch h⟩

theorem witness_ConformingPeripheralIsNeverUnexpected :
    let s := { writing with inputs := [.periph .nack] }
    s.Inv ∧ s.oweOk ∧ s.conforming ∧ ∃ t, step s = .next t ∧ t.trace = [.evNack, .stopReq] := by
  refine ⟨writing_inv, fun h => ?_, fun e rest i h => ?_, _, rfl, by decide⟩
  · cases h
  · cases h

theorem witness_EveryStepKeepsTheInvariant : writing.Inv ∧ ∃ t, step writing = .next t :=
  ⟨writing_inv, _, rfl⟩

theorem witness_HarmlessStepsEnterNoFault :
    let s := { writing with inputs := [.port (.ifc { opc := 3 })] }
    s.Inv ∧ s.faultFree ∧ s.calm ∧ ∃ t, step s = .next t := by
  refine ⟨writing_inv, rfl, ⟨fun i hi => ?_, fun i hi => ?_⟩, _, rfl⟩
  · have : (Fetched.run .evTxe) = .run i := hi
    cases this
    rfl
  · cases hi

theorem witness_RecordsOnlyGrow :
    ∃ t, step { writing with engUnexp := true, inputs := [.port (.ifc { opc := 3 })] } = .next t := ⟨_, rfl⟩

theorem witness_InterruptsTouchOnlyTheEngine :
    (∃ t, exec .evTxe writing = .next t) ∧ (∃ t, exec (.evRxf 1) lastByte = .next t) ∧
      (∃ t, exec .evNack writing = .next t) ∧ (∃ t, exec .evTimeout writing = .next t) ∧
      ∃ t, exec .peStopdone { up with pStopPending := true } = .next t := ⟨⟨_, rfl⟩, ⟨_, rfl⟩, ⟨_, rfl⟩, ⟨_, rfl⟩, _, rfl⟩

theorem witness_OneWriterEach :
    let s := { ended .wWait .w with inputs := [] }
    (∃ t, step s = .next t) ∧ s.performs ≠ some .gpioPoll ∧ (∀ ch, s.performs ≠ some (.linkOpen ch)) ∧
      s.performs ≠ some .linkClose ∧
      Instr.evTxe ≠ .gpioPoll ∧ (∀ ch, Instr.evTxe ≠ .linkOpen ch) ∧ Instr.evTxe ≠ .linkClose ∧
      ∃ t, exec .evTxe writing = .next t :=
  ⟨⟨_, rfl⟩, by decide, fun _ => nofun, by decide, by decide, fun _ => by simp, by decide, _, rfl⟩

theorem witness_NoStartWhileStopPending :
    let s := { up with pStopPending := true, inputs := [.port (.ifc { opc := 1, addr := 0x3C, bytes := [0xAA] })] }
    s.pStopPending = true ∧ ∃ t, step s = .next t := ⟨rfl, _, rfl⟩

theorem witness_OwnseqCountsTheFramesSent :
    ∃ t, step { up with inputs := [.port (.frame [0x24, 9, 0xFF, 0x82])] } = .next t ∧
      t.trace = [.send 1 [0x25, 0x00, 0x09, 0x02, 0x0F]] := ⟨_, rfl, by decide⟩

theorem witness_StopIsRequestedOnce :
    let s := { lastByte with inputs := [.port (.ifc { opc := 5 })] }
    s.Inv ∧ s.engState ≠ .idle ∧ s.engStopreq = true ∧ ∃ t, step s = .next t :=
  ⟨lastByte_inv, by decide, rfl, _, rfl⟩

/-- For the three statements about whole transactions, with a transaction of one byte and one of the greatest length. -/
theorem witness_WriteTransactionSucceeds :
    up.engState = .idle ∧ up.seqPhase = .ready ∧ up.held = [] ∧ up.pStopPending = false ∧
      0 < ([0xAA] : List Byte).length ∧ longest.length ≤ 255 := by
  rw [longest_length]
  decide

theorem witness_WriteTransactionNacked :
    up.engState = .idle ∧ up.seqPhase = .ready ∧ up.held = [] ∧ up.pStopPending = false ∧
      0 < ([1, 2] : List Byte).length ∧ ([1, 2] : List Byte).length ≤ 255 ∧ 0 ≤ ([1, 2] : List Byte).length ∧
      2 ≤ ([1, 2] : List Byte).length := by decide

theorem witness_ReadTransactionSucceeds :
    up.engState = .idle ∧ up.seqPhase = .ready ∧ up.held = [] ∧ up.pStopPending = false ∧
      0 < ([0x5A] : List Byte).length ∧ (1 : Byte).toNat = ([0x5A] : List Byte).length ∧
      (255 : Byte).toNat = longest.length := by
  rw [longest_length]
  decide

/-- For MalformedFramesAreDropped, ReservedOpTypesAreDropped, GpioReadAnswersThePins, GpioBadgroupAnswersTheError,
GpioChangeSendsTheRequest and DispSendSendsOrDrops, whose hypotheses these are. -/
theorem witness_MalformedFramesAreDropped : up.seqPhase = .ready ∧ up.held = [] := ⟨rfl, rfl⟩
theorem witness_ReservedOpTypesAreDropped : up.seqPhase = .ready ∧ up.held = [] := ⟨rfl, rfl⟩
theorem witness_GpioReadAnswersThePins : up.seqPhase = .ready ∧ up.held = [] := ⟨rfl, rfl⟩
theorem witness_GpioBadgroupAnswersTheError : up.seqPhase = .ready ∧ up.held = [] := ⟨rfl, rfl⟩
theorem witness_GpioChangeSendsTheRequest : up.seqPhase = .ready ∧ up.held = [] := ⟨rfl, rfl⟩
theorem witness_DispSendSendsOrDrops : up.seqPhase = .ready ∧ up.held = [] := ⟨rfl, rfl⟩

theorem witness_I2cWriteArmsTheEngine :
    up.seqPhase = .ready ∧ up.held = [] ∧ up.engState = .idle ∧ up.pStopPending = false ∧
      0 < ([0xAA] : List Byte).length ∧ longest.length ≤ 255 := by
  rw [longest_length]
  decide

theorem witness_ZeroLengthWriteAnswersAtOnce : up.seqPhase = .ready ∧ up.held = [] ∧ up.engState = .idle := by decide

theorem witness_I2cReadArmsTheSelectWrite :
    up.seqPhase = .ready ∧ up.held = [] ∧ up.engState = .idle ∧ up.pStopPending = false ∧
      0 < ([0x10] : List Byte).length ∧ longest.length ≤ 255 := by
  rw [longest_length]
  decide

theorem witness_I2cReadWithoutSelect :
    up.seqPhase = .ready ∧ up.held = [] ∧ up.engState = .idle ∧ up.pStopPending = false ∧
      (1 : BitVec 5) ≠ 0 ∧ (31 : BitVec 5) ≠ 0 ∧ (0 : BitVec 5) = 0 := by decide

theorem witness_CallsWaitForThePendingStop :
    let s := { up with pStopPending := true }
    s.seqPhase = .ready ∧ s.held = [] ∧ s.engState = .idle ∧ s.pStopPending = true ∧
      0 < ([0x10] : List Byte).length ∧ longest.length ≤ 255 ∧ (1 : BitVec 5) ≠ 0 ∧
      (1 : Byte) ≠ 0 := by
  rw [longest_length]
  decide

/-- A state that waits to make the call `c`, and then to wait in `p`. -/
def holding (c : Call) (p : SeqPhase) : State :=
  { up with seqPhase := .stopHold, inputs := [.seq], dispCtx := { DispCtx.reset with pending := c, resume := p } }

theorem witness_StopHoldEndsByArming :
    let s := holding (.write 0x3C [0xAA]) .wWait
    let u := holding (.read 0x3C 255) .rdWait
    s.fault = [] ∧ s.seqIsNext [] ∧ s.seqPhase = .stopHold ∧ s.pStopPending = false ∧
      s.dispCtx.pending = .write 0x3C [0xAA] ∧ 0 < ([0xAA] : List Byte).length ∧ longest.length ≤ 255 ∧
      u.fault = [] ∧ u.seqIsNext [] ∧ u.seqPhase = .stopHold ∧ u.pStopPending = false ∧
      u.dispCtx.pending = .read 0x3C 255 ∧ (255 : Byte) ≠ 0 ∧ (1 : Byte) ≠ 0 :=
  ⟨rfl, .inl rfl, rfl, rfl, rfl, by decide, Nat.le_of_eq longest_length, rfl, .inl rfl, rfl, rfl, rfl, by decide, by decide⟩

theorem witness_WriteRequestIsAnswered :
    let s := ended .wWait .w
    s.fault = [] ∧ s.seqIsNext [] ∧ s.seqPhase = .wWait ∧ s.engDone = true ∧ s.engDir = .w := by decide

theorem witness_ReadPhaseFollowsTheSelect :
    let s := { ended .selWait .w with dispCtx := { DispCtx.reset with rlen := 31 } }
    s.fault = [] ∧ s.seqIsNext [] ∧ s.seqPhase = .selWait ∧ s.engDone = true ∧ s.engState = .idle ∧
      s.engDir = .w ∧ s.dispCtx.rlen ≠ 0 ∧ s.pStopPending = false ∧
      ({ s with pStopPending := true } : State).pStopPending = true ∧
      ({ s with inputs := [] } : State).seqIsNext [] ∧ (ended .selWait .w).dispCtx.rlen = 0 := by decide

theorem witness_ReadRequestIsAnswered :
    let s := { ended .rdWait .r with engLen := 2, engBuf := [(0, 0x12), (1, 0x34)] }
    s.fault = [] ∧ s.seqIsNext [] ∧ s.seqPhase = .rdWait ∧ s.engDone = true ∧ s.engDir = .r ∧
      s.engErr = .none ∧ ([0x12, 0x34] : List Byte).length = s.engLen.toNat ∧
      (∀ j < 2, s.engBuf.get j = ([0x12, 0x34] : List Byte)[j]?) ∧
      ({ s with engErr := .noack } : State).engErr = .noack ∧
      (∃ j < 2, ({ s with engBuf := [(0, 0x12)] } : State).engBuf.get j = none) := by decide

theorem witness_EngWriteArmsTheEngine :
    up.engState = .idle ∧ up.seqPhase = .ready ∧ up.held = [] ∧ up.pStopPending = false ∧
      0 < ([0xD0] : List Byte).length ∧ longest.length ≤ 255 := by
  rw [longest_length]
  decide

theorem witness_EngReadArmsTheEngine :
    up.engState = .idle ∧ up.seqPhase = .ready ∧ up.held = [] ∧ up.pStopPending = false ∧ (1 : Byte) ≠ 0 ∧
      (255 : Byte) ≠ 0 := by decide

theorem witness_ZeroLengthCallReturnsAtOnce :
    let s := { up with pStopPending := true }
    s.engState = .idle ∧ s.seqPhase = .ready ∧ s.held = [] := by decide

theorem witness_BusyEngineRefusesCalls : writing.engState ≠ .idle := by decide

theorem witness_TooLongWriteFaults :
    up.engState = .idle ∧ up.seqPhase = .ready ∧ up.held = [] ∧ (0 :: longest).length > 255 := by
  rw [List.length_cons, longest_length]
  decide

theorem witness_CallReturnsItsResult :
    let s := { ended .callWait .r with engLen := 1, engBuf := [(0, 0x5A)] }
    s.fault = [] ∧ s.seqIsNext [] ∧ s.seqPhase = .callWait ∧ s.engDone = true ∧ s.engErr = .none ∧ s.engDir = .r ∧
      ([0x5A] : List Byte).length = s.engLen.toNat ∧
      (∀ j < 1, s.engBuf.get j = ([0x5A] : List Byte)[j]?) ∧
      ∃ j < 1, ({ s with engBuf := [] } : State).engBuf.get j = none := by decide

theorem witness_TxeEndsTheAddressPhase :
    writing.engState = .addr ∧ writing.engDir = .w ∧ writing.engBuf.get 0 = some 1 ∧
      (reading 1).engState = .addr ∧ (reading 1).engDir = .r ∧ (reading 1).pOwe = .ackR ∧ (reading 1).engLen = 1 ∧
      (reading 255).engLen ≠ 1 := by decide

theorem witness_TxeLoadsTheNextByte :
    let s := { writing with engState := .xfer, engIdx := 2, engRem := 2 }
    s.engDir = .w ∧ s.engState = .xfer ∧ s.engIdx.toNat < 255 ∧ s.engBuf.get s.engIdx.toNat = some 3 ∧
      ({ s with engIdx := 254 } : State).engBuf.get 254 = none ∧ s.fault = [] ∧
      writing.engState = .addr ∧ ({ writing with engBuf := [] } : State).engBuf.get 0 = none ∧
      ({ s with engIdx := 255 } : State).engIdx.toNat = 255 := by
  decide

theorem witness_TxeFinishesTheWrite :
    let s := { writing with engState := .compl, engIdx := 3, engRem := 1 }
    s.engState = .compl ∧ s.engDir = .w ∧ s.pOwe = .ackW := by decide

theorem witness_RxfStoresTheByte :
    let s := { reading 255 with engState := .xfer, engIdx := 254, engRem := 2, pOwe := .rx }
    s.engDir = .r ∧ s.engState = .xfer ∧ s.engIdx.toNat < 255 ∧ s.pOwe = .rx ∧
      ({ s with engIdx := 255 } : State).engIdx.toNat = 255 ∧ s.fault = [] := by decide

theorem witness_RxfFinishesTheRead :
    lastByte.engState = .compl ∧ lastByte.engDir = .r ∧ lastByte.engIdx.toNat < 255 ∧ lastByte.pOwe = .rx ∧
      lastByte.pStopPending = true := by decide

theorem witness_NackAbortsTheTransaction :
    writing.engState ≠ .idle ∧ writing.pOwe = .ackW ∧ (reading 1).engState ≠ .idle ∧ (reading 1).pOwe = .ackR ∧
      up.engState = .idle := by decide

theorem witness_UnexpectedEventsOnlySetTheFlag :
    up.engState = .idle ∧ lastByte.engDir = .r ∧ lastByte.engState ≠ .addr ∧ writing.engState = .addr ∧
      writing.engDir = .w := by decide

theorem witness_TimeoutAbortsTheTransaction :
    let s := { writing with params := { Params.default with watchdog := .enabled } }
    s.params.watchdog = .enabled ∧ s.engState ≠ .idle ∧ writing.params.watchdog = .none ∧ up.engState = .idle := by decide

theorem witness_StopReachesTheBus :
    let s := { up with pStopPending := true }
    s.pStopPending = true ∧ s.pOwe = .none ∧ up.pStopPending = false ∧ lastByte.pOwe ≠ .none := by decide

theorem witness_LinkCloseDisconnects : up.linkConnected = true ∧ State.reset.linkConnected = false := by decide

theorem witness_DeliveryDropsOrRunsTheCommand :
    up.seqPhase = .ready ∧ up.held = [] ∧ codecDecode [0x05, 0x00, 0xFF, 0x00] = none ∧
      (codecDecode [0x04, 0x06, 0xFF, 0x3C]).isSome = true := by decide

theorem witness_PollReportsAChange :
    let s := { up with pinReg := 0xF5 }
    s.seqPhase = .ready ∧ s.held = [] ∧ s.pinReg &&& s.params.pinMask ≠ s.gpioLast ∧
      up.pinReg &&& up.params.pinMask = up.gpioLast := by decide

theorem witness_PollIsIdempotent :
    let s := { up with pinReg := 0xF5 }
    s.seqPhase = .ready ∧ s.held = [] ∧ ∃ t, exec .gpioPoll s = .next t := ⟨rfl, rfl, _, rfl⟩

end Sys2Proof.Tests
end

section
/-! PROOFS: the scope of a step (00_scope.md). A step runs what is presented, a faulted state is never left, and a harmless step
enters no fault: the fault set stays as it is through every operation that SEQ and the engine make in a state of the
invariant. -/
namespace Sys2Proof.Machine

/-! ### What a step runs, and where it stops -/

/-- A choice that presents an instruction's encoding is fetched as that instruction. -/
theorem fetch_port_ok {s : State} {e : Encoded} {rest : List Slot} {i : Instr} (hi : s.inputs = .port e :: rest)
    (he : decode s.params e = .ok i) : s.fetch = .run i := by
  simp only [State.fetch, hi, fetchPort, he]

/-- Settles O7: what is fetched from the head of the list is the decoded instruction, and `advance` takes the choice off. -/
theorem stepRunsTheDecodedInstruction : Obligations.StepRunsTheDecodedInstruction := by
  intro s e rest i hf hi he
  rw [step_run hf (fetch_port_ok hi he), advance_eq hi]

/-- Settles O8: `step` looks at the fault set before it looks at anything else. -/
theorem faultedStateIsNeverLeft : Obligations.FaultedStateIsNeverLeft := by
  intro s f fs hf
  simp only [step, hf]

/-- Running a kept operation answers what `exec` answers, with the later ones still kept. -/
theorem runKept_eq_next {s t : State} {i : Instr} {rest : List Instr} (h : runKept i rest s = .next t) :
    ∃ u, exec i { s with held := [] } = .next u ∧ t = { u with held := u.held ++ rest } := by
  unfold runKept at h
  split at h
  next u hu =>
    injection h with h
    exact ⟨u, hu, h.symm⟩
  next => cases h
  next => cases h

/-! ### What the invariant gives -/

theorem State.Inv.seqOk {s : State} (h : s.Inv) : s.seqOk := by
  obtain ⟨-, -, -, hseq, -⟩ := h
  exact hseq

/-- In READY the engine is idle (R14, R32). -/
theorem State.Inv.engState_idle {s : State} (h : s.Inv) (hp : s.seqPhase = .ready) : s.engState = .idle := by
  simpa only [State.seqOk, hp] using h.seqOk

/-- A call whose transaction has ended leaves the engine idle (R22, R77). -/
theorem State.inCall.engState_idle {s : State} (h : s.inCall) (hd : s.engDone = true) : s.engState = .idle := by
  rcases h with ⟨-, hn⟩ | ⟨hi, -⟩
  · rw [hd] at hn; cases hn
  · exact hi

/-- In ADDR on a write, byte 0 of the buffer holds the first byte of data (R82, R86). -/
theorem State.Inv.memRead_addr {s : State} (h : s.Inv) (hs : s.engState = .addr) (hd : s.engDir = .w) :
    ∃ b, memRead s.engBuf 0 = .ok b := by
  obtain ⟨-, heng, hbuf, -, -⟩ := h
  simp only [State.engineOk, hs, hd] at heng
  simp only [State.bufferOk, hs, hd] at hbuf
  obtain ⟨-, -, hlen, -⟩ := heng
  obtain ⟨b, hb⟩ := Option.isSome_iff_exists.1 (hbuf 0 hlen)
  exact ⟨b, memRead_ok_iff.2 ⟨by decide, hb⟩⟩

/-- In XFER on a write, the byte at `eng_idx` is one of the data still to be sent (R82, R87). -/
theorem State.Inv.memRead_xfer {s : State} (h : s.Inv) (hs : s.engState = .xfer) (hd : s.engDir = .w) :
    ∃ b, memRead s.engBuf s.engIdx.toNat = .ok b := by
  obtain ⟨-, heng, hbuf, -, -⟩ := h
  simp only [State.engineOk, hs, hd] at heng
  simp only [State.bufferOk, hs, hd] at hbuf
  obtain ⟨-, hidx, -⟩ := heng
  obtain ⟨b, hb⟩ := Option.isSome_iff_exists.1 (hbuf _ hidx)
  have hlen := s.engLen.isLt
  exact ⟨b, memRead_ok_iff.2 ⟨by simp only [maxXfer]; omega, hb⟩⟩

/-- Where a read takes a byte, `eng_idx` is inside the buffer (R90, R91). -/
theorem State.Inv.engIdx_lt {s : State} (h : s.Inv) (hs : s.engState = .xfer ∨ s.engState = .compl) (hd : s.engDir = .r) :
    s.engIdx.toNat < maxXfer := by
  obtain ⟨-, heng, -, -, -⟩ := h
  have hlen := s.engLen.isLt
  simp only [maxXfer]
  rcases hs with hs | hs <;> simp only [State.engineOk, hs, hd] at heng
  · obtain ⟨hrem, hsum, -⟩ := heng
    omega
  · obtain ⟨-, hsum, -⟩ := heng
    omega

/-- The result of a transaction that has ended can be read: every byte of a good read has been written (R20, R84). -/
theorem State.Inv.engResult_ok {s : State} (h : s.Inv) (hs : s.engState = .idle) (hdone : s.engDone = true) :
    ∃ r, engResult s = .ok r := by
  obtain ⟨-, -, hbuf, -, -⟩ := h
  cases he : s.engErr with
  | none =>
    cases hd : s.engDir with
    | w => exact ⟨_, engResult_write he hd⟩
    | r =>
      simp only [State.bufferOk, hs, hd] at hbuf
      have hw := hbuf hdone he
      have hlen := s.engLen.isLt
      obtain ⟨bs, hbs, -⟩ := memReadAll_written (m := s.engBuf) (i := 0) (n := s.engLen.toNat)
        (by simp only [maxXfer]; omega) fun j hj => by rw [Nat.zero_add]; exact hw j hj
      exact ⟨.okRead bs, by simp only [engResult, he, hd, EngErr.busError, hbs]⟩
  | noack => exact ⟨_, engResult_err (by rw [he]; rfl)⟩
  | timeout => exact ⟨_, engResult_err (by rw [he]; rfl)⟩

/-- The invariant does not speak of the choices to come, and of the kept operations it asks nothing when there are none. -/
theorem State.Inv.advance {s : State} (h : s.Inv) : s.advance.Inv := h

theorem State.Inv.held_nil {s : State} (h : s.Inv) : { s with held := [] }.Inv := by
  obtain ⟨hrange, heng, hbuf, hseq, -⟩ := h
  exact ⟨hrange, heng, hbuf, hseq, by simp [State.heldOk]⟩

/-! ### Operations that leave the fault set as it is -/

/-- An atomic operation from `s` reaches a state, and that state's fault set is still that of `s`. -/
def EntersNoFault (s : State) (r : Except Fault State) : Prop := ∃ t, r = .ok t ∧ t.fault = s.fault

theorem EntersNoFault.of_ok {s t : State} (h : t.fault = s.fault) : EntersNoFault s (.ok t) := ⟨t, rfl, h⟩

/-- A step that enters no fault leaves the fault set as it is. -/
theorem EntersNoFault.commit_fault {s : State} {r : Except Fault State} (h : EntersNoFault s r) :
    (commit s r).fault = s.fault := by
  obtain ⟨t, rfl, ht⟩ := h
  exact ht

@[simp] theorem dispSend_fault (s : State) (op : OpType) (corr : Byte) (payload : List Byte) :
    (s.dispSend op corr payload).fault = s.fault := by
  rcases dispSend_cases s op corr payload with ⟨d, h⟩ | ⟨-, rest, h⟩ <;> rw [h] <;> rfl

@[simp] theorem finishWrite_fault (r : CallResult) (s : State) : (finishWrite r s).fault = s.fault := by
  simp [finishWrite]

@[simp] theorem finishRead_fault (r : CallResult) (s : State) : (finishRead r s).fault = s.fault := by
  simp [finishRead]

@[simp] theorem finishCall_fault (r : CallResult) (s : State) : (finishCall r s).fault = s.fault := rfl

@[simp] theorem poll_fault (s : State) : s.poll.fault = s.fault := by
  unfold State.poll
  split
  · exact dispSend_fault ..
  · rfl

@[simp] theorem abort_fault (s : State) (e : EngErr) : (s.abort e).fault = s.fault := by
  rw [abort_eq]

@[simp] theorem handleNack_fault (s : State) : (handleNack s).fault = s.fault := by
  unfold handleNack
  split
  · rfl
  · exact abort_fault ..

/-! ### The engine call -/

/-- Arming enters no fault for a call of at most MAX_XFER bytes (R82, R83). -/
theorem arm_entersNoFault {s : State} {c : Call} (hm : c.length ≤ maxXfer) : EntersNoFault s (s.arm c) := by
  cases c with
  | write a data =>
    obtain ⟨t, ht, ⟨buf, -, rfl⟩, -⟩ := arm_write (s := s) (a := a) (data := data) hm
    exact ⟨_, ht, rfl⟩
  | read a n =>
    obtain ⟨t, ht, harm⟩ := arm_read s a n
    unfold armsRead at harm
    exact ⟨t, ht, by rw [harm]⟩

/-- A call that returns at once leaves the state it was made in (R82, R83). -/
theorem engCall_returned_eq {p : SeqPhase} {c : Call} {s t : State} {r : CallResult}
    (h : engCall p c s = .ok (.returned r t)) : t = s := by
  obtain ⟨-, ⟨-, h⟩ | ⟨-, -, ⟨-, h⟩ | ⟨-, u, -, h⟩⟩⟩ := engCall_cases h <;> cases h
  rfl

/-- A call in which SEQ waits, armed or at the STOP gate, has entered no fault (R81 to R83). -/
theorem engCall_waiting_fault {p : SeqPhase} {c : Call} {s t : State} (h : engCall p c s = .ok (.waiting t)) :
    t.fault = s.fault := by
  obtain ⟨-, ⟨-, h⟩ | ⟨-, hm, ⟨-, h⟩ | ⟨-, u, hu, h⟩⟩⟩ := engCall_cases h <;> cases h
  · rfl
  · obtain ⟨v, hv, hfault⟩ := arm_entersNoFault (s := s) hm
    cases hu.symm.trans hv
    exact hfault

/-- A call on an idle engine, of at most MAX_XFER bytes, breaks no rule of R126 (R80, R82). -/
theorem engCall_ne_error {p : SeqPhase} {c : Call} {s : State} {f : Fault} (hs : s.engState = .idle)
    (hm : c.length ≤ maxXfer) : engCall p c s ≠ .error f := by
  by_cases h0 : c.length = 0
  · simp [engCall_zero hs h0]
  · cases hp : s.pStopPending with
    | true => simp [engCall_gate hs h0 hm hp]
    | false =>
      obtain ⟨t, ht, -⟩ := arm_entersNoFault (s := s) hm
      simp [engCall_arms hs h0 hm hp ht]

/-- No byte count is more than MAX_XFER (R83). -/
theorem Call.length_read_le (a : Addr7) (n : Byte) : (Call.read a n).length ≤ maxXfer := by
  have := n.isLt
  simp only [Call.length, maxXfer]
  omega

/-- An I2C write starts without a fault on an idle engine (R112). -/
theorem startWrite_entersNoFault {s : State} {q : Byte} {a : Addr7} {data : List Byte} (hs : s.engState = .idle)
    (hm : data.length ≤ maxXfer) : EntersNoFault s (startWrite q a data s) := by
  unfold startWrite
  split
  next r u hu => exact .of_ok (by rw [finishWrite_fault, engCall_returned_eq hu])
  next u hu => exact .of_ok (engCall_waiting_fault hu :)
  next f hf => exact absurd hf (engCall_ne_error hs hm)

/-- The read phase starts without a fault on an idle engine (R113). -/
theorem finishSelect_entersNoFault {s : State} (w : CallResult) (hs : s.engState = .idle) :
    EntersNoFault s (finishSelect w s) := by
  unfold finishSelect
  split
  next r u hu => exact .of_ok (by rw [finishRead_fault, engCall_returned_eq hu])
  next u hu => exact .of_ok (engCall_waiting_fault hu :)
  next f hf => exact absurd hf (engCall_ne_error hs (Call.length_read_le _ _))

/-- An I2C read starts without a fault on an idle engine; an empty select goes on to the read phase at once (R113). -/
theorem startRead_entersNoFault {s : State} {q : Byte} {a : Addr7} {n : BitVec 5} {sel : List Byte}
    (hs : s.engState = .idle) (hm : sel.length ≤ maxXfer) : EntersNoFault s (startRead q a n sel s) := by
  unfold startRead
  split
  next w u hu =>
    have hu := engCall_returned_eq hu
    obtain ⟨t, ht, hfault⟩ := finishSelect_entersNoFault (s := u) w (by rw [hu]; exact hs)
    exact ⟨t, ht, by rw [hfault, hu]⟩
  next u hu => exact .of_ok (engCall_waiting_fault hu :)
  next f hf => exact absurd hf (engCall_ne_error hs hm)

/-! ### Frame commands -/

/-- On an idle engine a frame command whose data an engine call takes enters no fault (R110 to R115). -/
theorem runCommand_entersNoFault {c : FrameCmd} {s : State} (hc : harmless c.toInstr = true) (hs : s.engState = .idle) :
    EntersNoFault s (runCommand c s) := by
  cases c with
  | i2cEmpty | gpioEmpty | i2cReadShort => exact .of_ok rfl
  | rsvdOp2 | rsvdOp3 | rsvdOp4 | rsvdOp5 | rsvdOp6 | rsvdOp7 => exact .of_ok rfl
  | i2cRead q r a u n sel => exact startRead_entersNoFault hs (of_decide_eq_true hc)
  | i2cWrite q r a data => exact startWrite_entersNoFault hs (of_decide_eq_true hc)
  | gpioRead | gpioBadgroup => exact .of_ok (dispSend_fault ..)

/-- The select bytes of a read request are part of its frame's payload (R66). -/
theorem decodeCommand_i2cRead_length {groups : List GroupId} {f : Frame} {q r : Byte} {a : Addr7} {u : BitVec 3}
    {n : BitVec 5} {sel : List Byte} (h : decodeCommand groups f = .ok (.i2cRead q r a u n sel)) :
    sel.length ≤ f.payload.length := by
  unfold decodeCommand at h
  split at h <;> cases h
  next hp =>
    rw [hp]
    simp only [List.length_cons]
    omega

/-- The data of a write request is part of its frame's payload (R65). -/
theorem decodeCommand_i2cWrite_length {groups : List GroupId} {f : Frame} {q r : Byte} {a : Addr7} {data : List Byte}
    (h : decodeCommand groups f = .ok (.i2cWrite q r a data)) : data.length ≤ f.payload.length := by
  unfold decodeCommand at h
  split at h <;> cases h
  next hp =>
    rw [hp]
    simp only [List.length_cons]
    omega

/-- A command decoded from a frame is harmless: its data is part of a payload of at most 28 bytes (R59). -/
theorem decodeFrame_harmless {groups : List GroupId} {b : List Byte} {c : FrameCmd} (h : decodeFrame groups b = .ok c) :
    harmless c.toInstr = true := by
  cases hb : codecDecode b with
  | none => rw [decodeFrame_none hb] at h; cases h
  | some f =>
    rw [decodeFrame_some hb] at h
    obtain ⟨-, hlen, -⟩ := codecDecode_header hb
    have hmax : f.payload.length ≤ maxXfer := hlen.trans (by decide)
    cases c with
    | i2cRead => exact decide_eq_true ((decodeCommand_i2cRead_length h).trans hmax)
    | i2cWrite => exact decide_eq_true ((decodeCommand_i2cWrite_length h).trans hmax)
    | _ => rfl

/-- Delivering any bytes on an idle engine enters no fault (R109). -/
theorem deliver_entersNoFault {b : List Byte} {s : State} (hs : s.engState = .idle) : EntersNoFault s (deliver b s) := by
  unfold deliver
  split
  next c hc => exact runCommand_entersNoFault (decodeFrame_harmless hc) hs
  next => exact .of_ok rfl

/-! ### The handlers -/

/-- TXE enters no fault where the byte to be sent has been written (R85 to R88). -/
theorem handleTxe_entersNoFault {s : State}
    (haddr : s.engState = .addr → s.engDir = .w → ∃ b, memRead s.engBuf 0 = .ok b)
    (hxfer : s.engState = .xfer → s.engDir = .w → ∃ b, memRead s.engBuf s.engIdx.toNat = .ok b) :
    EntersNoFault s (handleTxe s) := by
  unfold handleTxe
  split
  next hs hd =>
    obtain ⟨b, hb⟩ := haddr hs hd
    simp only [txeAddr, hd, hb]
    exact .of_ok rfl
  next hs hd =>
    simp only [txeAddr, hd]
    split <;> exact .of_ok rfl
  next hs hd =>
    obtain ⟨b, hb⟩ := hxfer hs hd
    simp only [txeXfer, hb]
    exact .of_ok rfl
  all_goals exact .of_ok rfl

/-- RXF enters no fault where the byte received falls inside the buffer (R89 to R91). -/
theorem handleRxf_entersNoFault {b : Byte} {s : State}
    (hidx : s.engState = .xfer ∨ s.engState = .compl → s.engDir = .r → s.engIdx.toNat < maxXfer) :
    EntersNoFault s (handleRxf b s) := by
  unfold handleRxf
  split
  next hs hd =>
    simp only [rxfXfer, memWrite, if_pos (hidx (.inl hs) hd)]
    refine ⟨_, rfl, ?_⟩
    split <;> rfl
  next hs hd =>
    simp only [rxfCompl, memWrite, if_pos (hidx (.inr hs) hd)]
    exact .of_ok rfl
  all_goals exact .of_ok rfl

/-! ### Instructions -/

/-- A SEQ operation that enters no fault in READY leaves the fault set as it is, run or kept. -/
theorem whenReady_fault {i : Instr} {act : State → Except Fault State} {s t : State}
    (h : whenReady i act s = .next t) (hact : s.seqPhase = .ready → EntersNoFault s (act s)) : t.fault = s.fault := by
  rcases whenReady_cases h with ⟨hp, -, rfl⟩ | rfl
  · exact (hact hp).commit_fault
  · rfl

/-- A harmless frame command, run or kept, leaves the fault set as it is. -/
theorem exec_command_fault {c : FrameCmd} {s t : State} (hinv : s.Inv) (hc : harmless c.toInstr = true)
    (h : exec c.toInstr s = .next t) : t.fault = s.fault :=
  whenReady_fault ((exec_toInstr c s).symm.trans h) fun hp => runCommand_entersNoFault hc (hinv.engState_idle hp)

/-- In a state of the invariant a harmless instruction leaves the fault set as it is. -/
theorem exec_harmless_fault {i : Instr} {s t : State} (hinv : s.Inv) (hi : harmless i = true) (h : exec i s = .next t) :
    t.fault = s.fault := by
  cases i with
  | i2cEmpty q c => exact exec_command_fault (c := .i2cEmpty q c) hinv hi h
  | gpioEmpty q c => exact exec_command_fault (c := .gpioEmpty q c) hinv hi h
  | rsvdOp2 q c p => exact exec_command_fault (c := .rsvdOp2 q c p) hinv hi h
  | rsvdOp3 q c p => exact exec_command_fault (c := .rsvdOp3 q c p) hinv hi h
  | rsvdOp4 q c p => exact exec_command_fault (c := .rsvdOp4 q c p) hinv hi h
  | rsvdOp5 q c p => exact exec_command_fault (c := .rsvdOp5 q c p) hinv hi h
  | rsvdOp6 q c p => exact exec_command_fault (c := .rsvdOp6 q c p) hinv hi h
  | rsvdOp7 q c p => exact exec_command_fault (c := .rsvdOp7 q c p) hinv hi h
  | i2cReadShort q c a => exact exec_command_fault (c := .i2cReadShort q c a) hinv hi h
  | i2cRead q c a u n sel => exact exec_command_fault (c := .i2cRead q c a u n sel) hinv hi h
  | i2cWrite q c a data => exact exec_command_fault (c := .i2cWrite q c a data) hinv hi h
  | gpioRead q c r u g rest => exact exec_command_fault (c := .gpioRead q c r u g rest) hinv hi h
  | gpioBadgroup q c r u g rest => exact exec_command_fault (c := .gpioBadgroup q c r u g rest) hinv hi h
  | engWrite | engRead => cases hi
  | evTxe =>
    cases h
    exact EntersNoFault.commit_fault (handleTxe_entersNoFault hinv.memRead_addr hinv.memRead_xfer)
  | evRxf b =>
    cases h
    exact EntersNoFault.commit_fault (handleRxf_entersNoFault hinv.engIdx_lt)
  | evNack =>
    cases h
    exact handleNack_fault _
  | evTimeout =>
    simp only [exec, execEvTimeout] at h
    split at h <;> cases h
    · exact abort_fault ..
    · rfl
  | peStopdone =>
    simp only [exec, execPeStopdone] at h
    split at h <;> cases h <;> rfl
  | linkOpen ch =>
    cases h
    rfl
  | linkClose =>
    simp only [exec, execLinkClose] at h
    split at h <;> cases h <;> rfl
  | frameDeliver ch b => exact whenReady_fault h fun hp => deliver_entersNoFault (hinv.engState_idle hp)
  | gpioPoll => exact whenReady_fault (act := fun u => .ok u.poll) h fun _ => .of_ok (poll_fault s)
  | codecEncode op q c p =>
    simp only [exec, execCodecEncode] at h
    split at h <;> cases h <;> rfl
  | codecDecode b =>
    simp only [exec, execCodecDecode] at h
    split at h <;> cases h <;> rfl
  | gpioChange v => exact whenReady_fault (act := fun u => .ok (u.gpioChange v)) h fun _ => .of_ok (dispSend_fault ..)
  | dispSend op c p => exact whenReady_fault (act := fun u => .ok (u.dispSend op c p)) h fun _ => .of_ok (dispSend_fault ..)

/-! ### SEQ's own steps -/

/-- Leaving a wait enters no fault when what follows the call enters none on the then idle engine. -/
theorem leaveWait_fault_eq {k : CallResult → State → Except Fault State} {s : State} (hinv : s.Inv) (hcall : s.inCall)
    (hk : ∀ r, s.engState = .idle → EntersNoFault s (k r s)) : (leaveWait k s).fault = s.fault := by
  cases hd : s.engDone with
  | false => rw [leaveWait_waiting hd]
  | true =>
    have hs := hcall.engState_idle hd
    obtain ⟨r, hr⟩ := hinv.engResult_ok hs hd
    rw [leaveWait_done hd hr]
    exact (hk r hs).commit_fault

/-- SEQ's step inside an operation enters no fault in a state of the invariant (R32, R81, R131). -/
theorem resumeSeq_fault {s : State} (hinv : s.Inv) : (resumeSeq s).fault = s.fault := by
  have hseq := hinv.seqOk
  cases hp : s.seqPhase <;> simp only [State.seqOk, hp] at hseq <;> simp only [resumeSeq, hp]
  case stopHold =>
    obtain ⟨-, -, hm, -⟩ := hseq
    obtain ⟨t, ht, hfault⟩ := arm_entersNoFault (s := s) hm
    split
    · rfl
    · rw [ht]
      exact hfault
  case wWait => exact leaveWait_fault_eq hinv hseq.1 fun r _ => .of_ok (finishWrite_fault r s)
  case selWait => exact leaveWait_fault_eq hinv hseq.1 fun r hs => finishSelect_entersNoFault r hs
  case rdWait => exact leaveWait_fault_eq hinv hseq.1 fun r _ => .of_ok (finishRead_fault r s)
  case callWait => exact leaveWait_fault_eq hinv hseq fun r _ => .of_ok (finishCall_fault r s)

/-! ### Fault freedom -/

/-- In a calm state the instruction the next step performs, presented or kept, is harmless. -/
theorem State.calm.performs_harmless {s : State} {i : Instr} (h : s.calm) (hi : s.performs = some i) :
    harmless i = true := by
  obtain ⟨hrun, hheld⟩ := h
  unfold State.performs at hi
  split at hi
  next j hj =>
    cases hi
    exact hrun i hj
  next =>
    split at hi
    · exact hheld i (List.mem_of_head? hi)
    · cases hi
  next => cases hi
  next => cases hi

/-- In a state of the invariant a calm step leaves the fault set as it is. -/
theorem step_calm_fault {s t : State} (hinv : s.Inv) (hcalm : s.calm) (h : step s = .next t) : t.fault = s.fault := by
  obtain ⟨-, ⟨i, hi, hexec⟩ | ⟨i, rest, hi, -, -, hkept⟩ | ⟨-, rfl | ⟨v, rfl⟩ | rfl⟩⟩ := step_cases h
  · exact exec_harmless_fault (s := s.advance) hinv.advance (hcalm.performs_harmless hi) hexec
  · obtain ⟨u, hu, rfl⟩ := runKept_eq_next hkept
    exact (exec_harmless_fault hinv.advance.held_nil (hcalm.performs_harmless hi) hu :)
  · exact resumeSeq_fault hinv.advance
  · rfl
  · rfl

/-- Settles O16: a calm step leaves the fault set as it is, and so an empty one empty. -/
theorem harmlessStepsEnterNoFault : Obligations.HarmlessStepsEnterNoFault := by
  intro s t hinv hfree hcalm h
  exact (step_calm_fault hinv hcalm h).trans hfree

end Sys2Proof.Machine
end

section
/-! PROOFS: every step keeps the invariant (10_state.md, 40_i2c_engine.md). The engine's handlers are taken state by state; SEQ's
operations go through the part of the invariant that also holds inside a step, where a command has set its phase and its engine
call has not started yet. -/
namespace Sys2Proof.Machine

/-! ### The invariant without SEQ's phase -/

/-- The invariant but for what SEQ's phase says of the engine. -/
def State.dataOk (s : State) : Prop := s.rangesOk ∧ s.engineOk ∧ s.bufferOk ∧ s.heldOk

theorem State.Inv.dataOk {s : State} (h : s.Inv) : s.dataOk := by
  obtain ⟨hrange, heng, hbuf, -, hheld⟩ := h
  exact ⟨hrange, heng, hbuf, hheld⟩

theorem State.dataOk.inv {s : State} (h : s.dataOk) (hseq : s.seqOk) : s.Inv := by
  obtain ⟨hrange, heng, hbuf, hheld⟩ := h
  exact ⟨hrange, heng, hbuf, hseq, hheld⟩

/-- In READY all that the invariant asks of the engine is that it is idle (R32). -/
theorem State.dataOk.setPhase_ready {s : State} (h : s.dataOk) (hs : s.engState = .idle) : (s.setPhase .ready).Inv :=
  State.dataOk.inv (s := s.setPhase .ready) h hs

/-- An operation kept for SEQ is one that SEQ takes (R109, R134). -/
theorem State.Inv.hold {s : State} {i : Instr} (h : s.Inv) (hi : isSeqOperation i = true) : (s.hold i).Inv := by
  obtain ⟨hrange, heng, hbuf, hseq, hheld⟩ := h
  refine ⟨hrange, heng, hbuf, hseq, fun j hj => ?_⟩
  rcases List.mem_append.1 hj with hj | hj
  · exact hheld j hj
  · rwa [List.mem_singleton.1 hj]

theorem State.Inv.enterFault {s : State} (h : s.Inv) (f : Fault) : (s.enterFault f).Inv := h

/-- A step keeps the invariant if the state it commits does. -/
theorem State.Inv.commit {s : State} {r : Except Fault State} (h : s.Inv) (hr : ∀ t, r = .ok t → t.Inv) :
    (commit s r).Inv := by
  rcases commit_cases s r with ⟨t, ht, he⟩ | ⟨f, -, he⟩ <;> rw [he]
  · exact hr t ht
  · exact h.enterFault f

/-! ### Arming -/

theorem toNat_ofNat_of_le_maxXfer {n : Nat} (h : n ≤ maxXfer) : (BitVec.ofNat 8 n).toNat = n := by
  simp only [maxXfer] at h
  simp only [BitVec.toNat_ofNat]
  omega

/-- Arming with no STOP pending begins a transaction in which every counter stands at its start and every byte to be sent
has been written (R82, R83). -/
theorem arm_dataOk {s t : State} {c : Call} (h : s.dataOk) (h0 : 0 < c.length) (hm : c.length ≤ maxXfer)
    (hs : s.pStopPending = false) (ht : s.arm c = .ok t) : t.dataOk ∧ t.inCall ∧ t.engDir = c.dir := by
  obtain ⟨⟨hown, hchan, hgpio, -, -, hwf⟩, -, -, hheld⟩ := h
  cases c with
  | write a data =>
    obtain ⟨u, hu, ⟨buf, hget, rfl⟩, hbuf⟩ := arm_write (s := s) (a := a) (data := data) hm
    cases ht.symm.trans hu
    have hlen := toNat_ofNat_of_le_maxXfer (n := data.length) hm
    refine ⟨⟨⟨hown, hchan, hgpio, Nat.zero_le _, le_rfl, hbuf hwf⟩, ?_, ?_, hheld⟩, .inl ⟨nofun, rfl⟩, rfl⟩
    · exact ⟨rfl, rfl, hlen.symm ▸ h0, rfl, rfl, rfl, hs, rfl⟩
    · intro i hi
      have hi : i < data.length := hlen ▸ hi
      rw [hget, if_pos hi, List.getElem?_eq_getElem hi]
      rfl
  | read a n =>
    obtain ⟨u, hu, harm⟩ := arm_read s a n
    cases ht.symm.trans hu
    unfold armsRead at harm
    subst harm
    refine ⟨⟨⟨hown, hchan, hgpio, Nat.zero_le _, le_rfl, hwf⟩, ?_, ?_, hheld⟩, .inl ⟨nofun, rfl⟩, rfl⟩
    · exact ⟨rfl, rfl, h0, rfl, rfl, rfl, hs, rfl⟩
    · exact fun i hi => absurd hi (Nat.not_lt_zero i)

/-- SEQ may wait in a phase that fits the call it made (R32, R81). -/
theorem State.dataOk.setPhase_wait {s : State} {p : SeqPhase} {c : Call} (h : s.dataOk) (hp : resumesOk p c)
    (hcall : s.inCall) (hdir : s.engDir = c.dir) : (s.setPhase p).Inv := by
  refine State.dataOk.inv (s := s.setPhase p) h ?_
  cases p with
  | ready | stopHold => cases hp
  | callWait => exact hcall
  | wWait | selWait =>
    cases c with
    | write => exact ⟨hcall, hdir⟩
    | read => cases hp
  | rdWait =>
    cases c with
    | write => cases hp
    | read => exact ⟨hcall, hdir⟩

/-- An engine call in which SEQ waits, armed or at the STOP gate, leaves the invariant (R81 to R83). -/
theorem engCall_waiting_inv {p : SeqPhase} {c : Call} {s t : State} (h : s.dataOk)
    (ht : engCall p c s = .ok (.waiting t)) (hp : resumesOk p c) : t.Inv := by
  obtain ⟨hs, ⟨-, ht⟩ | ⟨h0, hm, ⟨-, ht⟩ | ⟨hstop, u, hu, ht⟩⟩⟩ := engCall_cases ht <;> cases ht
  · obtain ⟨hrange, heng, hbuf, hheld⟩ := h
    exact ⟨hrange, heng, hbuf, ⟨hs, h0, hm, hp⟩, hheld⟩
  · obtain ⟨hu, hcall, hdir⟩ := arm_dataOk h h0 hm hstop hu
    exact hu.setPhase_wait hp hcall hdir

/-- An engine call that returned at once was made on an idle engine (R80, R82, R83). -/
theorem engCall_returned_idle {p : SeqPhase} {c : Call} {s t : State} {r : CallResult}
    (h : engCall p c s = .ok (.returned r t)) : t.engState = .idle := by
  rw [engCall_returned_eq h]
  exact (engCall_cases h).1

/-! ### What the invariant says of the engine, state by state -/

theorem engineOk_idle {s : State} (hs : s.engState = .idle) :
    s.engineOk ↔ s.pOwe = .none ∨ s.pOwe = .rx ∧ s.pStopPending = true := by
  simp only [State.engineOk, hs]

theorem engineOk_addr {s : State} (hs : s.engState = .addr) :
    s.engineOk ↔ s.engIdx = 0 ∧ s.engRem = s.engLen ∧ 0 < s.engLen.toNat ∧ s.engStopreq = false ∧ s.engDone = false ∧
      s.engErr = .none ∧ s.pStopPending = false ∧ (s.engDir = .w → s.pOwe = .ackW) ∧ (s.engDir = .r → s.pOwe = .ackR) := by
  cases hd : s.engDir <;> simp [State.engineOk, hs, hd]

theorem engineOk_xfer_write {s : State} (hs : s.engState = .xfer) (hd : s.engDir = .w) :
    s.engineOk ↔ 0 < s.engIdx.toNat ∧ s.engIdx.toNat < s.engLen.toNat ∧
      s.engRem.toNat + s.engIdx.toNat = s.engLen.toNat + 1 ∧
      s.engStopreq = false ∧ s.engDone = false ∧ s.engErr = .none ∧ s.pStopPending = false ∧ s.pOwe = .ackW := by
  simp only [State.engineOk, hs, hd]

theorem engineOk_xfer_read {s : State} (hs : s.engState = .xfer) (hd : s.engDir = .r) :
    s.engineOk ↔ 2 ≤ s.engRem.toNat ∧ s.engIdx.toNat + s.engRem.toNat = s.engLen.toNat ∧
      s.engStopreq = false ∧ s.engDone = false ∧ s.engErr = .none ∧ s.pStopPending = false ∧ s.pOwe = .rx := by
  simp only [State.engineOk, hs, hd]

theorem engineOk_compl_write {s : State} (hs : s.engState = .compl) (hd : s.engDir = .w) :
    s.engineOk ↔ 0 < s.engLen.toNat ∧ s.engIdx = s.engLen ∧ s.engRem = 1 ∧
      s.engStopreq = false ∧ s.engDone = false ∧ s.engErr = .none ∧ s.pStopPending = false ∧ s.pOwe = .ackW := by
  simp only [State.engineOk, hs, hd]

theorem engineOk_compl_read {s : State} (hs : s.engState = .compl) (hd : s.engDir = .r) :
    s.engineOk ↔ s.engRem = 1 ∧ s.engIdx.toNat + 1 = s.engLen.toNat ∧
      s.engStopreq = true ∧ s.engDone = false ∧ s.engErr = .none ∧ s.pStopPending = true ∧ s.pOwe = .rx := by
  simp only [State.engineOk, hs, hd]

/-- In an active write all the data stands in the buffer (R82). -/
theorem bufferOk_write {s : State} (hs : s.engState ≠ .idle) (hd : s.engDir = .w) :
    s.bufferOk ↔ s.written s.engLen.toNat := by
  cases h : s.engState <;> simp_all [State.bufferOk]

/-- In an active read the bytes received stand in the buffer (R90). -/
theorem bufferOk_read {s : State} (hs : s.engState ≠ .idle) (hd : s.engDir = .r) :
    s.bufferOk ↔ s.written s.engIdx.toNat := by
  cases h : s.engState <;> simp_all [State.bufferOk]

theorem bufferOk_idle_write {s : State} (hs : s.engState = .idle) (hd : s.engDir = .w) : s.bufferOk := by
  simp only [State.bufferOk, hs, hd]

theorem bufferOk_idle_read {s : State} (hs : s.engState = .idle) (hd : s.engDir = .r) :
    s.bufferOk ↔ (s.engDone = true → s.engErr = .none → s.written s.engLen.toNat) := by
  simp only [State.bufferOk, hs, hd]

/-! ### The handlers -/

/-- What a handler leaves as it is of the fields the invariant speaks of (R35, R145). For a state written as an update of `s` each
field holds by `rfl`, and `{}` proves them all. -/
structure EngineOnly (s t : State) : Prop where
  params : t.params = s.params := by rfl
  ownseq : t.ownseq = s.ownseq := by rfl
  linkChannel : t.linkChannel = s.linkChannel := by rfl
  gpioLast : t.gpioLast = s.gpioLast := by rfl
  seqPhase : t.seqPhase = s.seqPhase := by rfl
  held : t.held = s.held := by rfl
  engDir : t.engDir = s.engDir := by rfl
  engLen : t.engLen = s.engLen := by rfl

/-- While a transaction is active SEQ waits for it, and it goes on waiting until the transaction has ended (R131). -/
theorem State.seqOk.of_inCall {s t : State} (h : s.seqOk) (hs : s.engState ≠ .idle) (hk : EngineOnly s t)
    (hcall : t.inCall) : t.seqOk := by
  unfold State.seqOk at h ⊢
  rw [hk.seqPhase, hk.engDir]
  cases hp : s.seqPhase <;> simp only [hp] at h
  case ready => exact absurd h hs
  case stopHold => exact absurd h.1 hs
  case callWait => exact hcall
  all_goals exact ⟨hcall, h.2⟩

/-- A handler keeps the invariant in an active transaction if it keeps what the invariant says of the engine. -/
theorem State.Inv.of_engine {s t : State} (h : s.Inv) (hs : s.engState ≠ .idle) (hk : EngineOnly s t)
    (hidx : t.engIdx.toNat ≤ s.engLen.toNat) (hrem : t.engRem.toNat ≤ s.engLen.toNat) (hwf : t.engBuf.wf)
    (heng : t.engineOk) (hbuf : t.bufferOk) (hcall : t.inCall) : t.Inv := by
  obtain ⟨⟨hown, hchan, hgpio, -⟩, -, -, hseq, hheld⟩ := h
  refine ⟨⟨?_, ?_, ?_, ?_, ?_, hwf⟩, heng, hbuf, hseq.of_inCall hs hk hcall, ?_⟩
  · rwa [hk.ownseq]
  · rwa [hk.params, hk.linkChannel]
  · rwa [hk.params, hk.gpioLast]
  · rwa [hk.engLen]
  · rwa [hk.engLen]
  · unfold State.heldOk
    rwa [hk.held]

/-- The peripheral's report of an event, before the handler runs: its item joins the trace, and `p_owe` follows (R95). -/
abbrev State.reported (s : State) (x : TraceItem) (o : Owe) : State := { s.emit x with pOwe := o }

/-- An event that is not expected keeps the invariant where the peripheral goes on owing the same (R93; log 11). -/
theorem State.Inv.unexpected {s : State} {x : TraceItem} {o : Owe} (h : s.Inv) (ho : o = s.pOwe) :
    (s.reported x o).unexpected.Inv := by
  subst ho
  exact h

/-- In a transaction STOP has been requested only if it is still to reach the bus (R23, R26). -/
theorem State.Inv.stopPending {s : State} (h : s.Inv) (hs : s.engState ≠ .idle) (hreq : s.engStopreq = true) :
    s.pStopPending = true := by
  obtain ⟨-, heng, -⟩ := h
  unfold State.engineOk at heng
  split at heng <;> simp_all

/-- An abort keeps the invariant: the transaction has ended with an error, and STOP has been requested (R92, R94). -/
theorem State.Inv.abort {s : State} {x : TraceItem} {o : Owe} {e : EngErr} (h : s.Inv) (hs : s.engState ≠ .idle)
    (he : e ≠ .none) (ho : o = .none ∨ o = .rx) : ((s.reported x o).abort e).Inv := by
  rw [abort_eq]
  obtain ⟨⟨-, -, -, hidx, hrem, hwf⟩, -⟩ := id h
  have hstop : (if s.engStopreq = true then s.pStopPending else true) = true := by
    split
    next hreq => exact h.stopPending hs hreq
    next => rfl
  refine h.of_engine hs {} hidx hrem hwf ?_ ?_ (.inr ⟨rfl, rfl⟩)
  · exact ho.imp_right fun ho => ⟨ho, hstop⟩
  · cases hd : s.engDir <;> simp only [State.bufferOk, emit_engDir, hd]
    exact fun _ hn => absurd hn he

/-- A counter below another is not at its largest value, and so counts on. -/
theorem toNat_succ_of_lt {x y : Byte} (h : x.toNat < y.toNat) : (x + 1).toNat = x.toNat + 1 := by
  bv_omega

/-- A counter that is not at 0 counts down. -/
theorem toNat_pred_of_pos {x : Byte} (h : 0 < x.toNat) : (x - 1).toNat = x.toNat - 1 := by
  bv_omega

theorem toNat_ne_one {x : Byte} (h : x ≠ 1) : x.toNat ≠ 1 := by
  bv_omega

/-- TXE in ADDR on a write: the first byte is sent (R86). -/
theorem txeAddr_write_inv {s t : State} (h : s.Inv) (hs : s.engState = .addr) (hd : s.engDir = .w)
    (ht : txeAddr (s.reported .evTxe (oweAfterTxe s.pOwe)) = .ok t) : t.Inv := by
  have hact : s.engState ≠ .idle := by simp [hs]
  obtain ⟨⟨-, -, -, -, hrem, hwf⟩, heng, hbuf, -⟩ := id h
  obtain ⟨-, hr, hlen, hreq, hdone, herr, hstop, -⟩ := (engineOk_addr hs).1 heng
  have hbuf := (bufferOk_write hact hd).1 hbuf
  simp only [txeAddr, emit_engDir, hd] at ht
  split at ht <;> cases ht
  by_cases h1 : s.engLen = 1
  · simp only [emit_engLen, eq_true h1, if_true]
    exact h.of_engine hact {} hlen hrem hwf
      (Iff.mpr (engineOk_compl_write rfl hd) ⟨hlen, h1.symm, hr.trans h1, hreq, hdone, herr, hstop, rfl⟩)
      (Iff.mpr (bufferOk_write nofun hd) hbuf) (.inl ⟨nofun, hdone⟩)
  · have hlen1 : 1 < s.engLen.toNat := Nat.lt_of_le_of_ne hlen (toNat_ne_one h1).symm
    simp only [emit_engLen, eq_false h1, if_false]
    exact h.of_engine hact {} hlen hrem hwf
      (Iff.mpr (engineOk_xfer_write rfl hd)
        ⟨Nat.one_pos, hlen1, congrArg (·.toNat + 1) hr, hreq, hdone, herr, hstop, rfl⟩)
      (Iff.mpr (bufferOk_write nofun hd) hbuf) (.inl ⟨nofun, hdone⟩)

/-- TXE in ADDR on a read requests STOP when one byte is to come, and else only goes on (R86). -/
theorem txeAddr_read {s : State} (hd : s.engDir = .r) :
    txeAddr s = if s.engLen = 1 then .ok { s.emitStop with engState := .compl } else .ok { s with engState := .xfer } := by
  simp only [txeAddr, hd]

/-- TXE in ADDR on a read: reception starts, with STOP requested at once if one byte is to come (R86, R96). -/
theorem txeAddr_read_inv {s t : State} (h : s.Inv) (hs : s.engState = .addr) (hd : s.engDir = .r)
    (ht : txeAddr (s.reported .evTxe (oweAfterTxe s.pOwe)) = .ok t) : t.Inv := by
  have hact : s.engState ≠ .idle := by simp [hs]
  obtain ⟨⟨-, -, -, hidx, hrem, hwf⟩, heng, hbuf, -⟩ := id h
  obtain ⟨hi, hr, hlen, hreq, hdone, herr, hstop, -, howe⟩ := (engineOk_addr hs).1 heng
  have howe : oweAfterTxe s.pOwe = .rx := by rw [howe hd]; rfl
  have hbuf := (bufferOk_read hact hd).1 hbuf
  have hsum : s.engIdx.toNat + s.engLen.toNat = s.engLen.toNat := by rw [hi]; exact Nat.zero_add _
  rw [txeAddr_read (s := s.reported _ _) hd] at ht
  split at ht <;> cases ht
  next h1 =>
    refine h.of_engine hact {} hidx hrem hwf
      (Iff.mpr (engineOk_compl_read rfl hd) ⟨hr.trans h1, ?_, rfl, hdone, herr, rfl, howe⟩)
      (Iff.mpr (bufferOk_read nofun hd) hbuf) (.inl ⟨nofun, hdone⟩)
    exact (congrArg (s.engIdx.toNat + BitVec.toNat ·) h1).symm.trans hsum
  next h1 =>
    have hlen2 : 2 ≤ s.engLen.toNat := Nat.lt_of_le_of_ne hlen (toNat_ne_one h1).symm
    exact h.of_engine hact {} hidx hrem hwf
      (Iff.mpr (engineOk_xfer_read rfl hd) ⟨hr ▸ hlen2, hr.symm ▸ hsum, hreq, hdone, herr, hstop, howe⟩)
      (Iff.mpr (bufferOk_read nofun hd) hbuf) (.inl ⟨nofun, hdone⟩)

/-- TXE in XFER on a write: the next byte is sent (R87). -/
theorem txeXfer_inv {s t : State} (h : s.Inv) (hs : s.engState = .xfer) (hd : s.engDir = .w)
    (ht : txeXfer (s.reported .evTxe (oweAfterTxe s.pOwe)) = .ok t) : t.Inv := by
  have hact : s.engState ≠ .idle := by simp [hs]
  obtain ⟨⟨-, -, -, -, hrem, hwf⟩, heng, hbuf, -⟩ := id h
  obtain ⟨hi, hidx, hsum, hreq, hdone, herr, hstop, -⟩ := (engineOk_xfer_write hs hd).1 heng
  have hbuf := (bufferOk_write hact hd).1 hbuf
  have hidx' := toNat_succ_of_lt hidx
  have hrem' := toNat_pred_of_pos (x := s.engRem) (by omega)
  have hle : (s.engIdx + 1).toNat ≤ s.engLen.toNat := by omega
  have hle' : (s.engRem - 1).toNat ≤ s.engLen.toNat := by omega
  simp only [txeXfer, emit_engBuf, emit_engIdx] at ht
  split at ht <;> cases ht
  by_cases h1 : s.engIdx + 1 = s.engLen
  · have hlast : s.engRem - 1 = 1 := by
      rw [← h1] at hsum
      bv_omega
    simp only [emit_engLen, eq_true h1, if_true]
    exact h.of_engine hact {} hle hle' hwf
      (Iff.mpr (engineOk_compl_write rfl hd) ⟨Nat.zero_lt_of_lt hidx, h1, hlast, hreq, hdone, herr, hstop, rfl⟩)
      (Iff.mpr (bufferOk_write nofun hd) hbuf) (.inl ⟨nofun, hdone⟩)
  · have hlt : (s.engIdx + 1).toNat < s.engLen.toNat :=
      Nat.lt_of_le_of_ne hle fun hn => h1 (BitVec.eq_of_toNat_eq hn)
    have hpos : 0 < (s.engIdx + 1).toNat := by omega
    have hsum' : (s.engRem - 1).toNat + (s.engIdx + 1).toNat = s.engLen.toNat + 1 := by omega
    simp only [emit_engLen, eq_false h1, if_false]
    exact h.of_engine hact {} hle hle' hwf
      (Iff.mpr (engineOk_xfer_write rfl hd) ⟨hpos, hlt, hsum', hreq, hdone, herr, hstop, rfl⟩)
      (Iff.mpr (bufferOk_write nofun hd) hbuf) (.inl ⟨nofun, hdone⟩)

/-- TXE in COMPL on a write: the transaction ends, and nothing more is owed (R88, R96). -/
theorem txeCompl_inv {s : State} (h : s.Inv) (hs : s.engState = .compl) (hd : s.engDir = .w) :
    (txeCompl (s.reported .evTxe (oweAfterTxe s.pOwe))).Inv := by
  have hact : s.engState ≠ .idle := by simp [hs]
  obtain ⟨⟨-, -, -, hidx, -, hwf⟩, heng, -⟩ := id h
  obtain ⟨-, -, -, -, -, -, -, howe⟩ := (engineOk_compl_write hs hd).1 heng
  have howe : oweAfterTxe s.pOwe = .none := by rw [howe]; rfl
  exact h.of_engine hact {} hidx (Nat.zero_le _) hwf
    (Iff.mpr (engineOk_idle rfl) (.inl howe)) (bufferOk_idle_write rfl hd) (.inr ⟨rfl, rfl⟩)

/-- Where TXE is unexpected the peripheral owes no acknowledge, and the report changes nothing of what it owes (R96; log 11). -/
theorem State.Inv.oweAfterTxe_eq {s : State} (h : s.Inv)
    (hs : s.engState = .idle ∨ s.engDir = .r ∧ s.engState ≠ .addr) : oweAfterTxe s.pOwe = s.pOwe := by
  obtain ⟨-, heng, -⟩ := h
  cases he : s.engState
  case idle => rcases (engineOk_idle he).1 heng with howe | ⟨howe, -⟩ <;> rw [howe] <;> rfl
  case addr => simp [he] at hs
  case xfer =>
    have hd : s.engDir = .r := by simpa [he] using hs
    obtain ⟨-, -, -, -, -, -, howe⟩ := (engineOk_xfer_read he hd).1 heng
    rw [howe]; rfl
  case compl =>
    have hd : s.engDir = .r := by simpa [he] using hs
    obtain ⟨-, -, -, -, -, -, howe⟩ := (engineOk_compl_read he hd).1 heng
    rw [howe]; rfl

/-- The step of TXE keeps the invariant (R85, R96). -/
theorem handleTxe_inv {s t : State} (h : s.Inv) (ht : handleTxe (s.reported .evTxe (oweAfterTxe s.pOwe)) = .ok t) :
    t.Inv := by
  unfold handleTxe at ht
  split at ht
  next hs hd => exact txeAddr_write_inv h hs hd ht
  next hs hd => exact txeAddr_read_inv h hs hd ht
  next hs hd => exact txeXfer_inv h hs hd ht
  next hs hd => cases ht; exact txeCompl_inv h hs hd
  next hs hd => cases ht; exact h.unexpected (h.oweAfterTxe_eq (.inr ⟨hd, by simp_all⟩))
  next hs hd => cases ht; exact h.unexpected (h.oweAfterTxe_eq (.inr ⟨hd, by simp_all⟩))
  next hs hd => cases ht; exact h.unexpected (h.oweAfterTxe_eq (.inl hs))
  next hs hd => cases ht; exact h.unexpected (h.oweAfterTxe_eq (.inl hs))

/-- A byte stored behind the bytes written extends them (R20, R45). -/
theorem written_set {s t : State} {i : Byte} {b : Byte} {n : Nat} (h : s.written i.toNat)
    (hbuf : t.engBuf = s.engBuf.set i.toNat b) (hn : n = i.toNat + 1) : t.written n := by
  intro j hj
  rw [hbuf, Memory.get_set]
  split
  · rfl
  · exact h j (by omega)

/-- RXF in XFER on a read: the byte is stored, and STOP requested when one more is to come (R90, R98). -/
theorem rxfXfer_inv {s t : State} {b : Byte} (h : s.Inv) (hs : s.engState = .xfer) (hd : s.engDir = .r)
    (ht : rxfXfer b (s.reported (.evRxf b) (oweAfterRxf s.pStopPending s.pOwe)) = .ok t) : t.Inv := by
  have hact : s.engState ≠ .idle := by simp [hs]
  obtain ⟨⟨-, -, -, -, hrem, hwf⟩, heng, hbuf, -⟩ := id h
  obtain ⟨hr, hsum, hreq, hdone, herr, hstop, howe⟩ := (engineOk_xfer_read hs hd).1 heng
  have hbuf := (bufferOk_read hact hd).1 hbuf
  have howe : oweAfterRxf s.pStopPending s.pOwe = .rx := by rw [howe, hstop]; rfl
  have hidx := toNat_succ_of_lt (x := s.engIdx) (y := s.engLen) (by omega)
  have hrem' := toNat_pred_of_pos (x := s.engRem) (by omega)
  have hle : (s.engIdx + 1).toNat ≤ s.engLen.toNat := by omega
  have hle' : (s.engRem - 1).toNat ≤ s.engLen.toNat := by omega
  have hsum' : (s.engIdx + 1).toNat + (s.engRem - 1).toNat = s.engLen.toNat := by omega
  have hwf' := Memory.set_wf (v := b) hwf (h.engIdx_lt (.inl hs) hd)
  unfold rxfXfer at ht
  split at ht
  next buf hb =>
    obtain ⟨-, rfl⟩ := memWrite_ok_iff.1 hb
    injection ht with ht
    split at ht
    next h1 =>
      subst ht
      have hlast : (s.engIdx + 1).toNat + 1 = s.engLen.toNat := by
        rw [← hsum']
        exact congrArg ((s.engIdx + 1).toNat + BitVec.toNat ·) h1.symm
      exact h.of_engine hact {} hle hle' hwf'
        (Iff.mpr (engineOk_compl_read rfl hd) ⟨h1, hlast, rfl, hdone, herr, rfl, howe⟩)
        (Iff.mpr (bufferOk_read nofun hd) (written_set hbuf rfl hidx)) (.inl ⟨nofun, hdone⟩)
    next h1 =>
      subst ht
      have hrem2 : 2 ≤ (s.engRem - 1).toNat := by
        have h1 : (s.engRem - 1).toNat ≠ 1 := toNat_ne_one h1
        omega
      exact h.of_engine hact {} hle hle' hwf'
        (Iff.mpr (engineOk_xfer_read hs hd) ⟨hrem2, hsum', hreq, hdone, herr, hstop, howe⟩)
        (Iff.mpr (bufferOk_read hact hd) (written_set hbuf rfl hidx)) (.inl ⟨hact, hdone⟩)
  next => cases ht

/-- RXF in COMPL on a read: the last byte is stored and the transaction ends; reception ends with it (R91, R98). -/
theorem rxfCompl_inv {s t : State} {b : Byte} (h : s.Inv) (hs : s.engState = .compl) (hd : s.engDir = .r)
    (ht : rxfCompl b (s.reported (.evRxf b) (oweAfterRxf s.pStopPending s.pOwe)) = .ok t) : t.Inv := by
  have hact : s.engState ≠ .idle := by simp [hs]
  obtain ⟨⟨-, -, -, -, -, hwf⟩, heng, hbuf, -⟩ := id h
  obtain ⟨-, hlast, -, -, -, hstop, howe⟩ := (engineOk_compl_read hs hd).1 heng
  have hbuf := (bufferOk_read hact hd).1 hbuf
  have howe : oweAfterRxf s.pStopPending s.pOwe = .none := by rw [howe, hstop]; rfl
  have hidx := toNat_succ_of_lt (x := s.engIdx) (y := s.engLen) (by omega)
  have hwf' := Memory.set_wf (v := b) hwf (h.engIdx_lt (.inr hs) hd)
  unfold rxfCompl at ht
  split at ht
  next buf hb =>
    obtain ⟨-, rfl⟩ := memWrite_ok_iff.1 hb
    injection ht with ht
    subst ht
    exact h.of_engine hact {} (hidx.trans hlast).le (Nat.zero_le _) hwf'
      (Iff.mpr (engineOk_idle rfl) (.inl howe))
      (Iff.mpr (bufferOk_idle_read rfl hd) fun _ _ => written_set hbuf rfl hlast.symm) (.inr ⟨rfl, rfl⟩)
  next => cases ht

/-- While an acknowledge is owed, a byte that is reported all the same changes nothing of what is owed (log 11). -/
theorem State.Inv.oweAfterRxf_eq {s : State} (h : s.Inv)
    (hs : s.engState = .addr ∨ s.engState ≠ .idle ∧ s.engDir = .w) : oweAfterRxf s.pStopPending s.pOwe = s.pOwe := by
  obtain ⟨-, heng, -⟩ := h
  cases he : s.engState
  case idle => simp [he] at hs
  case addr =>
    obtain ⟨-, -, -, -, -, -, -, hw, hr⟩ := (engineOk_addr he).1 heng
    cases hd : s.engDir
    · rw [hw hd]; rfl
    · rw [hr hd]; rfl
  case xfer =>
    have hd : s.engDir = .w := by simpa [he] using hs
    obtain ⟨-, -, -, -, -, -, -, howe⟩ := (engineOk_xfer_write he hd).1 heng
    rw [howe]; rfl
  case compl =>
    have hd : s.engDir = .w := by simpa [he] using hs
    obtain ⟨-, -, -, -, -, -, -, howe⟩ := (engineOk_compl_write he hd).1 heng
    rw [howe]; rfl

/-- RXF in IDLE is unexpected; if the peripheral owed bytes, with the STOP pending it now owes none (R93, R98). -/
theorem rxf_idle_inv {s : State} {b : Byte} (h : s.Inv) (hs : s.engState = .idle) :
    (s.reported (.evRxf b) (oweAfterRxf s.pStopPending s.pOwe)).unexpected.Inv := by
  obtain ⟨hrange, heng, hrest⟩ := id h
  rcases (engineOk_idle hs).1 heng with howe | ⟨howe, hstop⟩
  · exact h.unexpected (by rw [howe]; rfl)
  · exact ⟨hrange, Iff.mpr (engineOk_idle hs) (.inl (by rw [howe, hstop]; rfl)), hrest⟩

/-- The step of RXF keeps the invariant (R89, R98). -/
theorem handleRxf_inv {s t : State} {b : Byte} (h : s.Inv)
    (ht : handleRxf b (s.reported (.evRxf b) (oweAfterRxf s.pStopPending s.pOwe)) = .ok t) : t.Inv := by
  unfold handleRxf at ht
  split at ht
  next hs hd => exact rxfXfer_inv h hs hd ht
  next hs hd => exact rxfCompl_inv h hs hd ht
  next hs hd => cases ht; exact h.unexpected (h.oweAfterRxf_eq (.inr ⟨by simp_all, hd⟩))
  next hs hd => cases ht; exact h.unexpected (h.oweAfterRxf_eq (.inr ⟨by simp_all, hd⟩))
  next hs hd => cases ht; exact h.unexpected (h.oweAfterRxf_eq (.inl hs))
  next hs hd => cases ht; exact h.unexpected (h.oweAfterRxf_eq (.inl hs))
  next hs hd => cases ht; exact rxf_idle_inv h hs
  next hs hd => cases ht; exact rxf_idle_inv h hs

/-- After NACK no acknowledge is owed (R97). -/
theorem oweAfterNack_cases (o : Owe) : oweAfterNack o = .none ∨ oweAfterNack o = .rx := by
  cases o <;> simp [oweAfterNack]

/-- The step of NACK keeps the invariant (R92, R97). -/
theorem handleNack_inv {s : State} (h : s.Inv) : (handleNack (s.reported .evNack (oweAfterNack s.pOwe))).Inv := by
  unfold handleNack
  split
  next hs =>
    refine h.unexpected ?_
    obtain ⟨-, heng, -⟩ := h
    rcases (engineOk_idle (s := s) hs).1 heng with howe | ⟨howe, -⟩ <;> rw [howe] <;> rfl
  next hs => exact h.abort hs nofun (oweAfterNack_cases _)

/-- The step of the watchdog keeps the invariant (R94). -/
theorem execEvTimeout_inv {s t : State} (h : s.Inv) (ht : execEvTimeout s = .next t) : t.Inv := by
  unfold execEvTimeout at ht
  split at ht <;> cases ht
  next hw => exact h.abort hw.2 nofun (.inl rfl)
  next => exact h

/-- While a transaction is active the peripheral owes a report (R25, R79). -/
theorem State.Inv.idle_of_owe_none {s : State} (h : s.Inv) (howe : s.pOwe = .none) : s.engState = .idle := by
  obtain ⟨-, heng, -⟩ := h
  cases hs : s.engState with
  | idle => rfl
  | addr =>
    obtain ⟨-, -, -, -, -, -, -, hw, hr⟩ := (engineOk_addr hs).1 heng
    cases hd : s.engDir
    · exact nomatch howe.symm.trans (hw hd)
    · exact nomatch howe.symm.trans (hr hd)
  | xfer | compl => cases hd : s.engDir <;> simp [State.engineOk, hs, hd, howe] at heng

/-- The STOP reaches the bus only with nothing owed, and so with the engine idle (R99). -/
theorem execPeStopdone_inv {s t : State} (h : s.Inv) (ht : execPeStopdone s = .next t) : t.Inv := by
  unfold execPeStopdone at ht
  split at ht <;> cases ht
  next hp =>
    obtain ⟨hstop, howe⟩ := hp
    obtain ⟨hrange, heng, hrest⟩ := id h
    exact ⟨hrange, Iff.mpr (engineOk_idle (h.idle_of_owe_none howe)) (.inl howe), hrest⟩
  next => exact h

/-! ### Sending -/

@[simp] theorem dispSend_engState (s : State) (op : OpType) (corr : Byte) (payload : List Byte) :
    (s.dispSend op corr payload).engState = s.engState := by
  rcases dispSend_cases s op corr payload with ⟨d, h⟩ | ⟨-, rest, h⟩ <;> rw [h] <;> rfl

/-- A send writes `ownseq` and the trace, and `ownseq` stays in its range (R27, R117). -/
theorem State.dataOk.dispSend {s : State} (h : s.dataOk) (op : OpType) (corr : Byte) (payload : List Byte) :
    (s.dispSend op corr payload).dataOk := by
  rcases dispSend_cases s op corr payload with ⟨d, he⟩ | ⟨-, rest, he⟩ <;> rw [he]
  · exact h
  · obtain ⟨⟨-, hrange⟩, hrest⟩ := h
    exact ⟨⟨nextSeq_lt _, hrange⟩, hrest⟩

theorem State.Inv.dispSend {s : State} (h : s.Inv) (op : OpType) (corr : Byte) (payload : List Byte) :
    (s.dispSend op corr payload).Inv := by
  refine (h.dataOk.dispSend op corr payload).inv ?_
  rcases dispSend_cases s op corr payload with ⟨d, he⟩ | ⟨-, rest, he⟩ <;> rw [he] <;> exact h.seqOk

/-- The snapshot a poll takes has no bit outside `PIN_MASK` (R29, R121). -/
theorem poll_inv {s : State} (h : s.Inv) : s.poll.Inv := by
  unfold State.poll
  split
  · obtain ⟨⟨hown, hchan, -, hrange⟩, hrest⟩ := h
    have hmask : sampledPins s &&& ~~~ s.params.pinMask = 0 := by simp [sampledPins, BitVec.and_assoc]
    exact State.Inv.dispSend (s := { s with gpioLast := sampledPins s }) ⟨⟨hown, hchan, hmask, hrange⟩, hrest⟩ ..
  · exact h

/-! ### SEQ's commands -/

theorem finishWrite_inv {s : State} (r : CallResult) (h : s.dataOk) (hs : s.engState = .idle) : (finishWrite r s).Inv :=
  (h.dispSend ..).setPhase_ready (by simpa using hs)

theorem finishRead_inv {s : State} (r : CallResult) (h : s.dataOk) (hs : s.engState = .idle) : (finishRead r s).Inv :=
  (h.dispSend ..).setPhase_ready (by simpa using hs)

theorem finishCall_inv {s : State} (r : CallResult) (h : s.dataOk) (hs : s.engState = .idle) : (finishCall r s).Inv :=
  State.dataOk.setPhase_ready (s := s.giveBack (.call r)) h hs

/-- An I2C write, up to its first hold or its end, leaves the invariant (R112). -/
theorem startWrite_inv {s t : State} {q : Byte} {a : Addr7} {data : List Byte} (h : s.dataOk)
    (ht : startWrite q a data s = .ok t) : t.Inv := by
  unfold startWrite at ht
  split at ht <;> cases ht
  next r u hu =>
    refine finishWrite_inv r ?_ (engCall_returned_idle hu)
    rw [engCall_returned_eq hu]
    exact h
  next hu => exact engCall_waiting_inv (s := { s with seqPhase := .wWait, dispCtx := _ }) h hu trivial

/-- The read phase, up to its hold or its end, leaves the invariant (R113). -/
theorem finishSelect_inv {s t : State} {w : CallResult} (h : s.dataOk) (ht : finishSelect w s = .ok t) : t.Inv := by
  unfold finishSelect at ht
  split at ht <;> cases ht
  next r u hu =>
    refine finishRead_inv r ?_ (engCall_returned_idle hu)
    rw [engCall_returned_eq hu]
    exact h
  next hu => exact engCall_waiting_inv (s := { s with seqPhase := .rdWait, dispCtx := _ }) h hu trivial

/-- An I2C read, up to its first hold or its end, leaves the invariant (R113). -/
theorem startRead_inv {s t : State} {q : Byte} {a : Addr7} {n : BitVec 5} {sel : List Byte} (h : s.dataOk)
    (ht : startRead q a n sel s = .ok t) : t.Inv := by
  unfold startRead at ht
  split at ht
  next w u hu =>
    refine finishSelect_inv ?_ ht
    rw [engCall_returned_eq hu]
    exact h
  next hu =>
    cases ht
    exact engCall_waiting_inv (s := { s with seqPhase := .selWait, dispCtx := _ }) h hu trivial
  next => cases ht

/-- Every frame command keeps the invariant (R110 to R115). -/
theorem runCommand_inv {c : FrameCmd} {s t : State} (h : s.Inv) (ht : runCommand c s = .ok t) : t.Inv := by
  cases c with
  | i2cEmpty | gpioEmpty | i2cReadShort => cases ht; exact h
  | rsvdOp2 | rsvdOp3 | rsvdOp4 | rsvdOp5 | rsvdOp6 | rsvdOp7 => cases ht; exact h
  | i2cRead => exact startRead_inv h.dataOk ht
  | i2cWrite => exact startWrite_inv h.dataOk ht
  | gpioRead | gpioBadgroup => cases ht; exact h.dispSend ..

/-- Every delivery keeps the invariant (R109). -/
theorem deliver_inv {b : List Byte} {s t : State} (h : s.Inv) (ht : deliver b s = .ok t) : t.Inv := by
  unfold deliver at ht
  split at ht
  · exact runCommand_inv h ht
  · cases ht; exact h

/-- A SEQ operation, run or kept, keeps the invariant if running it does. -/
theorem whenReady_inv {i : Instr} {act : State → Except Fault State} {s t : State} (h : s.Inv)
    (hi : isSeqOperation i = true) (hact : ∀ u, act s = .ok u → u.Inv) (ht : whenReady i act s = .next t) : t.Inv := by
  rcases whenReady_cases ht with ⟨-, -, rfl⟩ | rfl
  · exact h.commit hact
  · exact h.hold hi

/-- A direct call keeps the invariant, refused, kept, returned or begun (R80 to R83). -/
theorem directCall_inv {i : Instr} {c : Call} {s : State} (h : s.Inv) (hi : isSeqOperation i = true) :
    (directCall i c s).Inv := by
  unfold directCall
  split
  · exact h.enterFault _
  · split
    · exact h.hold hi
    · split
      next r u hu =>
        rw [engCall_returned_eq hu]
        exact h
      next hu => exact engCall_waiting_inv h.dataOk hu trivial
      next f hf => exact h.enterFault f

/-! ### SEQ's own steps -/

/-- Leaving a wait keeps the invariant when what follows the call keeps it on the then idle engine (R131). -/
theorem leaveWait_inv {k : CallResult → State → Except Fault State} {s : State} (h : s.Inv) (hcall : s.inCall)
    (hk : ∀ r t, s.engState = .idle → k r s = .ok t → t.Inv) : (leaveWait k s).Inv := by
  unfold leaveWait
  split
  next hd =>
    refine h.commit fun t ht => ?_
    split at ht
    · exact hk _ t (hcall.engState_idle hd) ht
    · cases ht
  next => exact h

/-- At the STOP gate SEQ arms the kept call once the prior STOP is on the bus (R81). -/
theorem resumeSeq_stopHold_inv {s : State} (h : s.Inv) (hp : s.seqPhase = .stopHold) : (resumeSeq s).Inv := by
  have hseq := h.seqOk
  simp only [State.seqOk, hp] at hseq
  obtain ⟨-, h0, hm, hres⟩ := hseq
  simp only [resumeSeq, hp]
  split
  next => exact h
  next hstop =>
    refine h.commit fun t ht => ?_
    split at ht <;> cases ht
    next u hu =>
      obtain ⟨hu, hcall, hdir⟩ := arm_dataOk h.dataOk h0 hm (by simpa using hstop) hu
      exact hu.setPhase_wait hres hcall hdir

/-- SEQ's step inside an operation keeps the invariant (R32, R81, R131). -/
theorem resumeSeq_inv {s : State} (h : s.Inv) : (resumeSeq s).Inv := by
  have hseq := h.seqOk
  cases hp : s.seqPhase <;> simp only [State.seqOk, hp] at hseq
  case stopHold => exact resumeSeq_stopHold_inv h hp
  all_goals simp only [resumeSeq, hp]
  case ready => exact h
  case wWait => exact leaveWait_inv h hseq.1 fun r t hs ht => by cases ht; exact finishWrite_inv r h.dataOk hs
  case selWait => exact leaveWait_inv h hseq.1 fun r t _ ht => finishSelect_inv h.dataOk ht
  case rdWait => exact leaveWait_inv h hseq.1 fun r t hs ht => by cases ht; exact finishRead_inv r h.dataOk hs
  case callWait => exact leaveWait_inv h hseq fun r t hs ht => by cases ht; exact finishCall_inv r h.dataOk hs

/-! ### Instructions -/

/-- A case split of an instruction: a frame command (R74), or one of the interface operations (R75). -/
theorem Instr.command_cases {motive : Instr → Prop} (i : Instr) (command : ∀ c : FrameCmd, motive c.toInstr)
    (engWrite : ∀ a data, motive (.engWrite a data)) (engRead : ∀ a n, motive (.engRead a n)) (evTxe : motive .evTxe)
    (evRxf : ∀ b, motive (.evRxf b)) (evNack : motive .evNack) (evTimeout : motive .evTimeout)
    (peStopdone : motive .peStopdone) (linkOpen : ∀ ch, motive (.linkOpen ch)) (linkClose : motive .linkClose)
    (frameDeliver : ∀ ch b, motive (.frameDeliver ch b)) (gpioPoll : motive .gpioPoll)
    (codecEncode : ∀ op q c p, motive (.codecEncode op q c p)) (codecDecode : ∀ b, motive (.codecDecode b))
    (gpioChange : ∀ v, motive (.gpioChange v)) (dispSend : ∀ op c p, motive (.dispSend op c p)) : motive i := by
  cases i with
  | i2cEmpty q c => exact command (.i2cEmpty q c)
  | gpioEmpty q c => exact command (.gpioEmpty q c)
  | rsvdOp2 q c p => exact command (.rsvdOp2 q c p)
  | rsvdOp3 q c p => exact command (.rsvdOp3 q c p)
  | rsvdOp4 q c p => exact command (.rsvdOp4 q c p)
  | rsvdOp5 q c p => exact command (.rsvdOp5 q c p)
  | rsvdOp6 q c p => exact command (.rsvdOp6 q c p)
  | rsvdOp7 q c p => exact command (.rsvdOp7 q c p)
  | i2cReadShort q c a => exact command (.i2cReadShort q c a)
  | i2cRead q c a u n sel => exact command (.i2cRead q c a u n sel)
  | i2cWrite q c a data => exact command (.i2cWrite q c a data)
  | gpioRead q c r u g rest => exact command (.gpioRead q c r u g rest)
  | gpioBadgroup q c r u g rest => exact command (.gpioBadgroup q c r u g rest)
  | engWrite a data => exact engWrite a data
  | engRead a n => exact engRead a n
  | evTxe => exact evTxe
  | evRxf b => exact evRxf b
  | evNack => exact evNack
  | evTimeout => exact evTimeout
  | peStopdone => exact peStopdone
  | linkOpen ch => exact linkOpen ch
  | linkClose => exact linkClose
  | frameDeliver ch b => exact frameDeliver ch b
  | gpioPoll => exact gpioPoll
  | codecEncode op q c p => exact codecEncode op q c p
  | codecDecode b => exact codecDecode b
  | gpioChange v => exact gpioChange v
  | dispSend op c p => exact dispSend op c p

theorem isSeqOperation_toInstr (c : FrameCmd) : isSeqOperation c.toInstr = true := by
  cases c <;> rfl

/-- A channel of a type with no handle is none, so the type of a channel has one (R7, R28). -/
theorem channelIds_ne_zero {p : Params} {ch : ChannelId} (h : p.isChannel ch = true) : p.channelIds ≠ some 0 := by
  intro h0
  simp [Params.isChannel, h0] at h

/-- Closing the link leaves some channel of CHANNEL_ID (R108, I6). -/
theorem execLinkClose_inv {s t : State} (h : s.Inv) (ht : execLinkClose s = .next t) : t.Inv := by
  unfold execLinkClose at ht
  split at ht <;> cases ht
  · obtain ⟨⟨hown, hchan, hrange⟩, hrest⟩ := h
    exact ⟨⟨hown, isChannel_channel _ (channelIds_ne_zero hchan), hrange⟩, hrest⟩
  · exact h

/-- Every instruction keeps the invariant, as long as a link is opened with a channel of CHANNEL_ID (R107). -/
theorem exec_inv {i : Instr} {s t : State} (h : s.Inv) (hchan : ∀ ch, i = .linkOpen ch → s.params.isChannel ch = true)
    (ht : exec i s = .next t) : t.Inv := by
  cases i using Instr.command_cases with
  | command c =>
    rw [exec_toInstr] at ht
    exact whenReady_inv h (isSeqOperation_toInstr c) (fun u hu => runCommand_inv h hu) ht
  | engWrite a data => cases ht; exact directCall_inv h rfl
  | engRead a n => cases ht; exact directCall_inv h rfl
  | evTxe => cases ht; exact h.commit fun u hu => handleTxe_inv h hu
  | evRxf b => cases ht; exact h.commit fun u hu => handleRxf_inv h hu
  | evNack => cases ht; exact handleNack_inv h
  | evTimeout => exact execEvTimeout_inv h ht
  | peStopdone => exact execPeStopdone_inv h ht
  | linkOpen ch =>
    cases ht
    obtain ⟨⟨hown, -, hrange⟩, hrest⟩ := h
    exact ⟨⟨hown, hchan ch rfl, hrange⟩, hrest⟩
  | linkClose => exact execLinkClose_inv h ht
  | frameDeliver ch b => exact whenReady_inv h rfl (fun u hu => deliver_inv h hu) ht
  | gpioPoll => exact whenReady_inv (act := fun u => .ok u.poll) h rfl (fun u hu => by cases hu; exact poll_inv h) ht
  | codecEncode op q c p =>
    simp only [exec, execCodecEncode] at ht
    split at ht <;> cases ht <;> exact h
  | codecDecode b =>
    simp only [exec, execCodecDecode] at ht
    split at ht <;> cases ht <;> exact h
  | gpioChange v =>
    exact whenReady_inv (act := fun u => .ok (u.gpioChange v)) h rfl (fun u hu => by cases hu; exact h.dispSend ..) ht
  | dispSend op c p =>
    exact whenReady_inv (act := fun u => .ok (u.dispSend op c p)) h rfl (fun u hu => by cases hu; exact h.dispSend ..) ht

/-! ### Every step -/

/-- An interface word opens the link only with a channel of CHANNEL_ID (R7, R107). -/
theorem decodeIfc_linkOpen {p : Params} {w : IfcWord} {ch : ChannelId} (h : decodeIfc p w = .ok (.linkOpen ch)) :
    p.isChannel ch = true := by
  unfold decodeIfc withChannel at h
  split at h <;> try cases h
  · split at h <;> cases h
    assumption
  · split at h <;> cases h

/-- No frame opens the link (R74). -/
theorem toInstr_ne_linkOpen (c : FrameCmd) (ch : ChannelId) : c.toInstr ≠ .linkOpen ch := by
  cases c <;> nofun

/-- What is presented opens the link only with a channel of CHANNEL_ID. -/
theorem fetchPort_linkOpen {p : Params} {e : Encoded} {ch : ChannelId} (h : fetchPort p e = .run (.linkOpen ch)) :
    p.isChannel ch = true := by
  unfold fetchPort at h
  cases e with
  | ifc w =>
    split at h <;> cases h
    next hd => exact decodeIfc_linkOpen hd
  | frame b =>
    split at h <;> cases h
    next hd =>
      simp only [decode] at hd
      split at hd
      · injection hd with hd
        exact absurd hd (toInstr_ne_linkOpen _ ch)
      · cases hd

/-- The link is opened only by what is presented, for PERIPH does not open it and SEQ keeps no such operation. -/
theorem performs_linkOpen {s : State} {ch : ChannelId} (h : s.heldOk) (hp : s.performs = some (.linkOpen ch)) :
    s.params.isChannel ch = true := by
  unfold State.performs at hp
  split at hp
  next i hi =>
    cases hp
    unfold State.fetch at hi
    split at hi <;> try cases hi
    next e _ _ =>
      unfold fetchPeriph at hi
      split at hi <;> cases e <;> cases hi
    next => exact fetchPort_linkOpen hi
  next =>
    split at hp
    · cases h _ (List.mem_of_head? hp)
    · cases hp
  next => cases hp
  next => cases hp

/-- Settles O15: the next step performs an instruction, presented or kept, or takes a step of SEQ or PINS or none. -/
theorem everyStepKeepsTheInvariant : Obligations.EveryStepKeepsTheInvariant := by
  intro s t h ht
  obtain ⟨-, -, -, -, hheld⟩ := id h
  obtain ⟨-, ⟨i, hi, hexec⟩ | ⟨i, rest, hi, -, hs, hkept⟩ | ⟨-, rfl | ⟨v, rfl⟩ | rfl⟩⟩ := step_cases ht
  · exact exec_inv (s := s.advance) h (fun ch hch => performs_linkOpen (s := s) hheld (hch ▸ hi)) hexec
  · obtain ⟨u, hu, rfl⟩ := runKept_eq_next hkept
    have hu := exec_inv (s := { s.advance with held := [] }) h.held_nil
      (fun ch hch => performs_linkOpen (s := s) hheld (hch ▸ hi)) hu
    obtain ⟨hrange, heng, hbuf, hseq, hheld'⟩ := hu
    refine ⟨hrange, heng, hbuf, hseq, fun j hj => ?_⟩
    rcases List.mem_append.1 hj with hj | hj
    · exact hheld' j hj
    · exact hheld j (hs ▸ List.mem_cons_of_mem _ hj)
  · exact resumeSeq_inv h.advance
  · exact h
  · exact h

/-! ### Reset -/

/-- Settles O14: after reset every counter stands at 0, and the snapshot and channel 0 are the legal parameters' (R7, R140). -/
theorem resetMeetsTheInvariant : Obligations.ResetMeetsTheInvariant := by
  intro p hp
  simp only [Params.legal, Bool.and_eq_true, beq_iff_eq] at hp
  obtain ⟨⟨-, hsnap⟩, hchan⟩ := hp
  have hrange : (State.resetWith p).rangesOk :=
    ⟨(by decide : (0 : Byte).toNat < seqMod), hchan, hsnap, le_rfl, le_rfl, .nil, nofun⟩
  exact ⟨⟨hrange, .inl rfl, trivial, rfl, nofun⟩, ⟨rfl, rfl, rfl, rfl, rfl⟩, fun _ => rfl⟩

end Sys2Proof.Machine
end

section
/-! PROOFS: what a step can write (10_state.md, section 4). Every operation is quiet, or it is quiet but for one send; the poll first
takes its snapshot, and the link operations write LinkState and are quiet else. That the records only grow, who writes `gpio_last`
and LinkState, and how `ownseq` counts are all read off from this one case split. -/
namespace Sys2Proof.Machine

/-! ### Quiet operations -/

/-- From `s` to `t` no frame is sent, the records only grow, and LinkState, `gpio_last` and the parameters stay. -/
def Quiet (s t : State) : Prop :=
  t.params = s.params ∧ (s.engUnexp = true → t.engUnexp = true) ∧ s.fault <+: t.fault ∧ s.returns <+: t.returns ∧
    (∃ items, t.trace = s.trace ++ items ∧ sentFrames items = []) ∧ t.ownseq = s.ownseq ∧
    t.linkConnected = s.linkConnected ∧ t.linkChannel = s.linkChannel ∧ t.gpioLast = s.gpioLast

theorem Quiet.refl (s : State) : Quiet s s :=
  ⟨rfl, id, List.prefix_rfl, List.prefix_rfl, ⟨[], (List.append_nil _).symm, rfl⟩, rfl, rfl, rfl, rfl⟩

theorem sentFrames_append (xs ys : List TraceItem) : sentFrames (xs ++ ys) = sentFrames xs ++ sentFrames ys :=
  List.filterMap_append

theorem Quiet.trans {s t u : State} (h : Quiet s t) (h' : Quiet t u) : Quiet s u := by
  obtain ⟨hp, hx, hf, hr, ⟨xs, ht, hs⟩, ho, hc, hl, hg⟩ := h
  obtain ⟨hp', hx', hf', hr', ⟨ys, ht', hs'⟩, ho', hc', hl', hg'⟩ := h'
  exact ⟨hp'.trans hp, hx' ∘ hx, hf.trans hf', hr.trans hr',
    ⟨xs ++ ys, by rw [ht', ht, List.append_assoc], by rw [sentFrames_append, hs, hs']; rfl⟩,
    ho'.trans ho, hc'.trans hc, hl'.trans hl, hg'.trans hg⟩

theorem Quiet.emit {s : State} {x : TraceItem} (hx : sentFrames [x] = []) : Quiet s (s.emit x) :=
  ⟨rfl, id, List.prefix_rfl, List.prefix_rfl, ⟨[x], rfl, hx⟩, rfl, rfl, rfl, rfl⟩

theorem Quiet.enterFault (s : State) (f : Fault) : Quiet s (s.enterFault f) :=
  ⟨rfl, id, enterFault_fault_grows s f, List.prefix_rfl, ⟨[], (List.append_nil _).symm, rfl⟩, rfl, rfl, rfl, rfl⟩

theorem Quiet.giveBack (s : State) (r : ReturnItem) : Quiet s (s.giveBack r) :=
  ⟨rfl, id, List.prefix_rfl, List.prefix_append .., ⟨[], (List.append_nil _).symm, rfl⟩, rfl, rfl, rfl, rfl⟩

theorem Quiet.unexpected (s : State) : Quiet s s.unexpected :=
  ⟨rfl, fun _ => rfl, List.prefix_rfl, List.prefix_rfl, ⟨[], (List.append_nil _).symm, rfl⟩, rfl, rfl, rfl, rfl⟩

theorem Quiet.abort (s : State) (e : EngErr) : Quiet s (s.abort e) := by
  rw [abort_eq]
  refine ⟨rfl, id, List.prefix_rfl, List.prefix_rfl, ⟨_, rfl, ?_⟩, rfl, rfl, rfl, rfl⟩
  split <;> rfl

/-- A step is quiet if the state it commits is reached quietly. -/
theorem Quiet.commit {s : State} {r : Except Fault State} (h : ∀ t, r = .ok t → Quiet s t) : Quiet s (commit s r) := by
  rcases commit_cases s r with ⟨t, ht, he⟩ | ⟨f, -, he⟩ <;> rw [he]
  · exact h t ht
  · exact .enterFault s f

/-! ### The engine -/

theorem quiet_arm {s t : State} {c : Call} (h : s.arm c = .ok t) : Quiet s t := by
  unfold State.arm at h
  split at h <;> cases h
  exact Quiet.emit (s := s) (x := .start _) rfl

/-- A call in which SEQ waits has sent nothing (R81 to R83). -/
theorem quiet_engCall_waiting {p : SeqPhase} {c : Call} {s t : State} (h : engCall p c s = .ok (.waiting t)) :
    Quiet s t := by
  obtain ⟨-, ⟨-, h⟩ | ⟨-, -, ⟨-, h⟩ | ⟨-, u, hu, h⟩⟩⟩ := engCall_cases h <;> cases h
  · exact Quiet.refl s
  · exact (quiet_arm hu :)

theorem quiet_txeAddr {s t : State} (h : txeAddr s = .ok t) : Quiet s t := by
  unfold txeAddr at h
  split at h
  · split at h <;> cases h
    exact Quiet.emit (s := s) (x := .tx _) rfl
  · split at h <;> cases h
    · exact Quiet.emit (s := s) (x := .stopReq) rfl
    · exact Quiet.refl s

theorem quiet_txeXfer {s t : State} (h : txeXfer s = .ok t) : Quiet s t := by
  unfold txeXfer at h
  split at h <;> cases h
  exact Quiet.emit (s := s) (x := .tx _) rfl

theorem quiet_handleTxe {s t : State} (h : handleTxe s = .ok t) : Quiet s t := by
  unfold handleTxe at h
  split at h
  next => exact quiet_txeAddr h
  next => exact quiet_txeAddr h
  next => exact quiet_txeXfer h
  next => cases h; exact Quiet.emit (s := s) (x := .stopReq) rfl
  all_goals cases h; exact Quiet.unexpected s

theorem quiet_handleRxf {b : Byte} {s t : State} (h : handleRxf b s = .ok t) : Quiet s t := by
  unfold handleRxf at h
  split at h
  next =>
    unfold rxfXfer at h
    split at h
    · injection h with h
      subst h
      split
      · exact Quiet.emit (s := s) (x := .stopReq) rfl
      · exact Quiet.refl s
    · cases h
  next =>
    unfold rxfCompl at h
    split at h <;> cases h
    exact Quiet.refl s
  all_goals cases h; exact Quiet.unexpected s

theorem quiet_handleNack (s : State) : Quiet s (handleNack s) := by
  unfold handleNack
  split
  · exact Quiet.unexpected s
  · exact Quiet.abort s _

theorem quiet_execEvTimeout {s t : State} (h : execEvTimeout s = .next t) : Quiet s t := by
  unfold execEvTimeout at h
  split at h <;> cases h
  · exact (Quiet.emit rfl : Quiet s (s.emit .evTimeout)).trans (Quiet.abort (s.reported .evTimeout .none) .timeout)
  · exact Quiet.refl s

theorem quiet_execPeStopdone {s t : State} (h : execPeStopdone s = .next t) : Quiet s t := by
  unfold execPeStopdone at h
  split at h <;> cases h
  · exact Quiet.emit (s := s) (x := .stopDone) rfl
  · exact Quiet.refl s

theorem quiet_directCall (i : Instr) (c : Call) (s : State) : Quiet s (directCall i c s) := by
  unfold directCall
  split
  · exact Quiet.enterFault s _
  · split
    · exact Quiet.refl s
    · split
      next r u hu =>
        rw [engCall_returned_eq hu]
        exact Quiet.giveBack s _
      next hu => exact quiet_engCall_waiting hu
      next f _ => exact Quiet.enterFault s f

/-! ### Operations that send -/

/-- From `s` to `t` at most one frame is sent or dropped (R117), and what happens before and after it is quiet. -/
def SendsAtMostOnce (s t : State) : Prop :=
  Quiet s t ∨ ∃ u op corr payload, Quiet s u ∧ Quiet (u.dispSend op corr payload) t

theorem SendsAtMostOnce.send (s : State) (op : OpType) (corr : Byte) (payload : List Byte) :
    SendsAtMostOnce s (s.dispSend op corr payload) :=
  .inr ⟨s, op, corr, payload, .refl _, .refl _⟩

theorem SendsAtMostOnce.quiet {s t u : State} (h : SendsAtMostOnce s t) (h' : Quiet t u) : SendsAtMostOnce s u := by
  obtain h | ⟨v, op, corr, payload, h, hs⟩ := h
  · exact .inl (h.trans h')
  · exact .inr ⟨v, op, corr, payload, h, hs.trans h'⟩

theorem SendsAtMostOnce.commit {s : State} {r : Except Fault State} (h : ∀ t, r = .ok t → SendsAtMostOnce s t) :
    SendsAtMostOnce s (commit s r) := by
  rcases commit_cases s r with ⟨t, ht, he⟩ | ⟨f, -, he⟩ <;> rw [he]
  · exact h t ht
  · exact .inl (.enterFault s f)

theorem finishWrite_sends (r : CallResult) (s : State) : SendsAtMostOnce s (finishWrite r s) :=
  .inr ⟨s, _, _, _, .refl s, .refl _⟩

theorem finishRead_sends (r : CallResult) (s : State) : SendsAtMostOnce s (finishRead r s) :=
  .inr ⟨s, _, _, _, .refl s, .refl _⟩

theorem startWrite_sends {s t : State} {q : Byte} {a : Addr7} {data : List Byte} (h : startWrite q a data s = .ok t) :
    SendsAtMostOnce s t := by
  unfold startWrite at h
  split at h <;> cases h
  next r u hu =>
    rw [engCall_returned_eq hu]
    exact finishWrite_sends r { s with seqPhase := .wWait, dispCtx := _ }
  next hu => exact .inl (quiet_engCall_waiting hu :)

theorem finishSelect_sends {s t : State} {w : CallResult} (h : finishSelect w s = .ok t) : SendsAtMostOnce s t := by
  unfold finishSelect at h
  split at h <;> cases h
  next r u hu =>
    rw [engCall_returned_eq hu]
    exact finishRead_sends r { s with seqPhase := .rdWait, dispCtx := _ }
  next hu => exact .inl (quiet_engCall_waiting hu :)

theorem startRead_sends {s t : State} {q : Byte} {a : Addr7} {n : BitVec 5} {sel : List Byte}
    (h : startRead q a n sel s = .ok t) : SendsAtMostOnce s t := by
  unfold startRead at h
  split at h
  next w u hu =>
    rw [engCall_returned_eq hu] at h
    exact (finishSelect_sends h :)
  next hu =>
    cases h
    exact .inl (quiet_engCall_waiting hu :)
  next => cases h

theorem runCommand_sends {c : FrameCmd} {s t : State} (h : runCommand c s = .ok t) : SendsAtMostOnce s t := by
  cases c with
  | i2cEmpty | gpioEmpty | i2cReadShort => cases h; exact .inl (.emit rfl)
  | rsvdOp2 | rsvdOp3 | rsvdOp4 | rsvdOp5 | rsvdOp6 | rsvdOp7 => cases h; exact .inl (.emit rfl)
  | i2cRead => exact startRead_sends h
  | i2cWrite => exact startWrite_sends h
  | gpioRead | gpioBadgroup => cases h; exact .send ..

theorem deliver_sends {b : List Byte} {s t : State} (h : deliver b s = .ok t) : SendsAtMostOnce s t := by
  unfold deliver at h
  split at h
  · exact runCommand_sends h
  · cases h; exact .inl (.emit rfl)

theorem whenReady_sends {i : Instr} {act : State → Except Fault State} {s t : State}
    (hact : ∀ u, act s = .ok u → SendsAtMostOnce s u) (h : whenReady i act s = .next t) : SendsAtMostOnce s t := by
  rcases whenReady_cases h with ⟨-, -, rfl⟩ | rfl
  · exact .commit hact
  · exact .inl (Quiet.refl s)

/-! ### SEQ's own steps -/

theorem leaveWait_sends {k : CallResult → State → Except Fault State} {s : State}
    (hk : ∀ r t, k r s = .ok t → SendsAtMostOnce s t) : SendsAtMostOnce s (leaveWait k s) := by
  unfold leaveWait
  split
  · refine .commit fun t ht => ?_
    split at ht
    · exact hk _ t ht
    · cases ht
  · exact .inl (.refl s)

theorem resumeSeq_sends (s : State) : SendsAtMostOnce s (resumeSeq s) := by
  unfold resumeSeq
  split
  next => exact .inl (.refl s)
  next =>
    split
    · exact .inl (.refl s)
    · refine .inl (.commit fun t ht => ?_)
      split at ht <;> cases ht
      next hu => exact (quiet_arm hu :)
  next => exact leaveWait_sends fun r t ht => by cases ht; exact finishWrite_sends r s
  next => exact leaveWait_sends fun r t ht => finishSelect_sends ht
  next => exact leaveWait_sends fun r t ht => by cases ht; exact finishRead_sends r s
  next => exact leaveWait_sends fun r t ht => by cases ht; exact .inl (Quiet.giveBack s (.call r))

/-! ### What an instruction and a step can write -/

/-- What a step that performs the instruction `p`, or none, can write from `s` to `t`: it sends at most once; a poll takes its
snapshot first (R121); and the link operations write LinkState and send nothing (R107, R108). -/
def Effect (p : Option Instr) (s t : State) : Prop :=
  SendsAtMostOnce s t ∨
    (p = some .gpioPoll ∧ ∃ v, SendsAtMostOnce { s with gpioLast := v } t) ∨
    (((∃ ch, p = some (.linkOpen ch)) ∨ p = some .linkClose) ∧
      ∃ c ch, Quiet { s with linkConnected := c, linkChannel := ch } t)

theorem Effect.quiet {p : Option Instr} {s t u : State} (h : Effect p s t) (h' : Quiet t u) : Effect p s u := by
  obtain h | ⟨hp, v, h⟩ | ⟨hp, c, ch, h⟩ := h
  · exact .inl (h.quiet h')
  · exact .inr (.inl ⟨hp, v, h.quiet h'⟩)
  · exact .inr (.inr ⟨hp, c, ch, h.trans h'⟩)

theorem execGpioPoll_effect {s t : State} (h : execGpioPoll s = .next t) : Effect (some .gpioPoll) s t := by
  rcases whenReady_cases (act := fun u => .ok u.poll) h with ⟨-, -, rfl⟩ | rfl
  · simp only [commit_ok, State.poll]
    split
    · exact .inr (.inl ⟨rfl, _, .send ..⟩)
    · exact .inl (.inl (.refl s))
  · exact .inl (.inl (Quiet.refl s))

theorem execLinkClose_effect {s t : State} (h : execLinkClose s = .next t) : Effect (some .linkClose) s t := by
  unfold execLinkClose at h
  split at h <;> cases h
  · exact .inr (.inr ⟨.inr rfl, false, _, Quiet.refl { s with linkConnected := false, linkChannel := _ }⟩)
  · exact .inl (.inl (.refl s))

theorem exec_effect {i : Instr} {s t : State} (h : exec i s = .next t) : Effect (some i) s t := by
  cases i using Instr.command_cases with
  | command c =>
    rw [exec_toInstr] at h
    exact .inl (whenReady_sends (fun u hu => runCommand_sends hu) h)
  | engWrite a data => cases h; exact .inl (.inl (quiet_directCall ..))
  | engRead a n => cases h; exact .inl (.inl (quiet_directCall ..))
  | evTxe =>
    cases h
    exact .inl (.inl (.commit fun u hu => (Quiet.emit rfl : Quiet s (s.emit .evTxe)).trans (quiet_handleTxe hu :)))
  | evRxf b =>
    cases h
    exact .inl (.inl (.commit fun u hu => (Quiet.emit rfl : Quiet s (s.emit (.evRxf b))).trans (quiet_handleRxf hu :)))
  | evNack =>
    cases h
    exact .inl (.inl ((Quiet.emit rfl : Quiet s (s.emit .evNack)).trans (quiet_handleNack (s.reported .evNack _))))
  | evTimeout => exact .inl (.inl (quiet_execEvTimeout h))
  | peStopdone => exact .inl (.inl (quiet_execPeStopdone h))
  | linkOpen ch =>
    cases h
    exact .inr (.inr ⟨.inl ⟨ch, rfl⟩, true, ch, .refl _⟩)
  | linkClose => exact execLinkClose_effect h
  | frameDeliver ch b => exact .inl (whenReady_sends (fun u hu => deliver_sends hu) h)
  | gpioPoll => exact execGpioPoll_effect h
  | codecEncode op q c p =>
    simp only [exec, execCodecEncode] at h
    split at h <;> cases h <;> exact .inl (.inl (.giveBack s _))
  | codecDecode b =>
    simp only [exec, execCodecDecode] at h
    split at h <;> cases h <;> exact .inl (.inl (.giveBack s _))
  | gpioChange v =>
    exact .inl (whenReady_sends (act := fun u => .ok (u.gpioChange v)) (fun u hu => by cases hu; exact .send ..) h)
  | dispSend op c p =>
    exact .inl (whenReady_sends (act := fun u => .ok (u.dispSend op c p)) (fun u hu => by cases hu; exact .send ..) h)

theorem step_effect {s t : State} (h : step s = .next t) : Effect s.performs s t := by
  obtain ⟨-, ⟨i, hi, hexec⟩ | ⟨i, rest, hi, -, -, hkept⟩ | ⟨-, rfl | ⟨v, rfl⟩ | rfl⟩⟩ := step_cases h
  · rw [hi]
    exact (exec_effect hexec :)
  · obtain ⟨u, hu, rfl⟩ := runKept_eq_next hkept
    rw [hi]
    exact Effect.quiet (exec_effect hu :) (Quiet.refl u)
  · exact .inl (resumeSeq_sends s.advance)
  · exact .inl (.inl (Quiet.refl s))
  · exact .inl (.inl (Quiet.refl s))

/-! ### The records only grow -/

/-- From `s` to `t` the parameters stay, and what `eng_unexp`, the fault set, the trace and the returned values record is kept
(R24, R37, R38). -/
def KeepsRecords (s t : State) : Prop :=
  t.params = s.params ∧ (s.engUnexp = true → t.engUnexp = true) ∧ s.fault <+: t.fault ∧ s.trace <+: t.trace ∧
    s.returns <+: t.returns

theorem KeepsRecords.trans {s t u : State} (h : KeepsRecords s t) (h' : KeepsRecords t u) : KeepsRecords s u := by
  obtain ⟨hp, hx, hf, ht, hr⟩ := h
  obtain ⟨hp', hx', hf', ht', hr'⟩ := h'
  exact ⟨hp'.trans hp, hx' ∘ hx, hf.trans hf', ht.trans ht', hr.trans hr'⟩

theorem Quiet.keepsRecords {s t : State} (h : Quiet s t) : KeepsRecords s t := by
  obtain ⟨hp, hx, hf, hr, ⟨items, ht, -⟩, -⟩ := h
  exact ⟨hp, hx, hf, ht ▸ List.prefix_append .., hr⟩

theorem dispSend_keepsRecords (s : State) (op : OpType) (corr : Byte) (payload : List Byte) :
    KeepsRecords s (s.dispSend op corr payload) := by
  rcases dispSend_cases s op corr payload with ⟨d, h⟩ | ⟨-, rest, h⟩ <;> rw [h] <;>
    exact ⟨rfl, id, List.prefix_rfl, List.prefix_append .., List.prefix_rfl⟩

theorem SendsAtMostOnce.keepsRecords {s t : State} (h : SendsAtMostOnce s t) : KeepsRecords s t := by
  obtain h | ⟨u, op, corr, payload, h, h'⟩ := h
  · exact h.keepsRecords
  · exact h.keepsRecords.trans ((dispSend_keepsRecords ..).trans h'.keepsRecords)

/-- Settles O17: neither `gpio_last` nor LinkState is among the records. -/
theorem recordsOnlyGrow : Obligations.RecordsOnlyGrow := by
  intro s t h
  obtain h | ⟨-, v, h⟩ | ⟨-, c, ch, h⟩ := step_effect h
  · exact h.keepsRecords
  · exact (h.keepsRecords :)
  · exact (h.keepsRecords :)

/-! ### Who writes `gpio_last` and LinkState -/

/-- From `s` to `t` LinkState and `gpio_last` stay. -/
def KeepsLinkAndGpio (s t : State) : Prop :=
  t.linkConnected = s.linkConnected ∧ t.linkChannel = s.linkChannel ∧ t.gpioLast = s.gpioLast

theorem KeepsLinkAndGpio.trans {s t u : State} (h : KeepsLinkAndGpio s t) (h' : KeepsLinkAndGpio t u) :
    KeepsLinkAndGpio s u := by
  obtain ⟨hc, hl, hg⟩ := h
  obtain ⟨hc', hl', hg'⟩ := h'
  exact ⟨hc'.trans hc, hl'.trans hl, hg'.trans hg⟩

theorem Quiet.keepsLinkAndGpio {s t : State} (h : Quiet s t) : KeepsLinkAndGpio s t := by
  obtain ⟨-, -, -, -, -, -, hkeeps⟩ := h
  exact hkeeps

theorem dispSend_keepsLinkAndGpio (s : State) (op : OpType) (corr : Byte) (payload : List Byte) :
    KeepsLinkAndGpio s (s.dispSend op corr payload) := by
  rcases dispSend_cases s op corr payload with ⟨d, h⟩ | ⟨-, rest, h⟩ <;> rw [h] <;> exact ⟨rfl, rfl, rfl⟩

theorem SendsAtMostOnce.keepsLinkAndGpio {s t : State} (h : SendsAtMostOnce s t) : KeepsLinkAndGpio s t := by
  obtain h | ⟨u, op, corr, payload, h, h'⟩ := h
  · exact h.keepsLinkAndGpio
  · exact h.keepsLinkAndGpio.trans ((dispSend_keepsLinkAndGpio ..).trans h'.keepsLinkAndGpio)

/-- Only a poll writes `gpio_last` (R29, R124). -/
theorem Effect.gpioLast {p : Option Instr} {s t : State} (h : Effect p s t) (hp : p ≠ some .gpioPoll) :
    t.gpioLast = s.gpioLast := by
  obtain h | ⟨hpoll, -⟩ | ⟨-, c, ch, h⟩ := h
  · obtain ⟨-, -, hg⟩ := h.keepsLinkAndGpio
    exact hg
  · exact absurd hpoll hp
  · obtain ⟨-, -, hg⟩ := h.keepsLinkAndGpio
    exact hg

/-- Only LINK_OPEN and LINK_CLOSE write LinkState (R28). -/
theorem Effect.link {p : Option Instr} {s t : State} (h : Effect p s t) (ho : ∀ ch, p ≠ some (.linkOpen ch))
    (hc : p ≠ some .linkClose) : t.linkConnected = s.linkConnected ∧ t.linkChannel = s.linkChannel := by
  obtain h | ⟨-, v, h⟩ | ⟨⟨ch, hopen⟩ | hclose, -⟩ := h
  · obtain ⟨hconn, hchan, -⟩ := h.keepsLinkAndGpio
    exact ⟨hconn, hchan⟩
  · obtain ⟨hconn, hchan, -⟩ := h.keepsLinkAndGpio
    exact ⟨hconn, hchan⟩
  · exact absurd hopen (ho ch)
  · exact absurd hclose hc

/-- Settles O19: a step has the effect of the instruction it performs. -/
theorem oneWriterEach : Obligations.OneWriterEach := by
  refine ⟨fun s t h => ⟨(step_effect h).gpioLast, (step_effect h).link⟩, fun i s t h => ⟨fun hi => ?_, fun ho hc => ?_⟩⟩
  · exact (exec_effect h).gpioLast (hi ∘ Option.some.inj)
  · exact (exec_effect h).link (fun ch => ho ch ∘ Option.some.inj) (hc ∘ Option.some.inj)

/-! ### The frames sent -/

/-- From `s` to `t` no frame is sent and `ownseq` stays, or one is, while connected, numbered by `ownseq`, which counts on
(R27, R117, R118). -/
def CountsFrames (s t : State) : Prop :=
  ∃ items, t.trace = s.trace ++ items ∧
    (sentFrames items = [] ∧ t.ownseq = s.ownseq ∨
      ∃ bytes, sentFrames items = [bytes] ∧ s.linkConnected = true ∧ bytes[1]? = some s.ownseq ∧
        t.ownseq = BitVec.ofNat 8 ((s.ownseq.toNat + 1) % 255))

theorem Quiet.countsFrames {s t : State} (h : Quiet s t) : CountsFrames s t := by
  obtain ⟨-, -, -, -, ⟨items, ht, hs⟩, ho, -⟩ := h
  exact ⟨items, ht, .inl ⟨hs, ho⟩⟩

/-- One send, at the end of what the trace holds (R104, R117). -/
theorem dispSend_countsFrames (s : State) (op : OpType) (corr : Byte) (payload : List Byte) :
    CountsFrames s (s.dispSend op corr payload) := by
  rcases dispSend_cases s op corr payload with ⟨d, h⟩ | ⟨hconn, rest, h⟩ <;> rw [h]
  · exact ⟨[.dropTx d], rfl, .inl ⟨rfl, rfl⟩⟩
  · exact ⟨[.send _ _], rfl, .inr ⟨_, rfl, hconn, rfl, rfl⟩⟩

/-- Quiet operations before and after do not change how many frames are sent, nor their number. -/
theorem CountsFrames.between_quiet {s t u v : State} (h : CountsFrames t u) (hs : Quiet s t) (hv : Quiet u v) :
    CountsFrames s v := by
  obtain ⟨-, -, -, -, ⟨xs, hxs, hx⟩, ho, hc, -⟩ := hs
  obtain ⟨-, -, -, -, ⟨ys, hys, hy⟩, ho', -⟩ := hv
  obtain ⟨items, hitems, hcase⟩ := h
  have hframes : sentFrames (xs ++ items ++ ys) = sentFrames items := by
    rw [sentFrames_append, sentFrames_append, hx, hy, List.nil_append, List.append_nil]
  refine ⟨xs ++ items ++ ys, by rw [hys, hitems, hxs]; simp only [List.append_assoc], ?_⟩
  rwa [hframes, ho', ← ho, ← hc]

theorem SendsAtMostOnce.countsFrames {s t : State} (h : SendsAtMostOnce s t) : CountsFrames s t := by
  obtain h | ⟨u, op, corr, payload, h, h'⟩ := h
  · exact h.countsFrames
  · exact (dispSend_countsFrames u op corr payload).between_quiet h h'

/-- Settles O21: the link operations, which write `link_connected`, send nothing. -/
theorem ownseqCountsTheFramesSent : Obligations.OwnseqCountsTheFramesSent := by
  intro s t h
  obtain h | ⟨-, v, h⟩ | ⟨-, c, ch, h⟩ := step_effect h
  · exact h.countsFrames
  · exact (h.countsFrames :)
  · obtain ⟨-, -, -, -, ⟨items, ht, hs⟩, ho, -⟩ := h
    exact ⟨items, ht, .inl ⟨hs, ho⟩⟩

end Sys2Proof.Machine
end

section
/-! PROOFS: the choices of the input list that run no instruction of their own (10_state.md, section 4), the operations that wait for
SEQ (section 5), and what SEQ does when a read or a direct call has ended. -/
namespace Sys2Proof.Machine

/-! ### The other choices -/

/-- The code 0x0 is no operation (R75). -/
theorem decodeIfc_reserved {p : Params} {w : IfcWord} (h : w.opc = 0) : decodeIfc p w = .error .reservedOpc := by
  simp [decodeIfc, h]

/-- LINK_OPEN and FRAME_DELIVER with a channel that is no handle of CHANNEL_ID are no operations (R7; log 2). -/
theorem decodeIfc_noChannel {p : Params} {w : IfcWord} (h : w.opc = 0x8 ∨ w.opc = 0xA)
    (hc : p.isChannel w.chan = false) : decodeIfc p w = .error .noChannel := by
  rcases h with h | h <;> simp [decodeIfc, h, withChannel, hc]

/-- The handles of a bounded CHANNEL_ID are the numbers below the bound. -/
theorem isChannel_eq_false {p : Params} {n : Nat} {ch : ChannelId} (hn : p.channelIds = some n) (h : n ≤ ch) :
    p.isChannel ch = false := by
  simpa [Params.isChannel, hn] using h

/-- An interface word that is no operation is taken and has no effect (I17; log 2, 18). -/
theorem step_port_refused {s : State} {w : IfcWord} {rest : List Slot} {e : DecodeError} (hf : s.fault = [])
    (hi : s.inputs = .port (.ifc w) :: rest) (he : decodeIfc s.params w = .error e) :
    step s = .next { s with inputs := rest } := by
  have hfetch : s.fetch = .nothing := by simp only [State.fetch, hi, fetchPort, decode, he]
  rw [step_nothing hf hfetch, advance_eq hi]

/-- Bytes that CODEC_DECODE rejects go to FRAME_DELIVER (R73, R109; log 7). -/
theorem step_port_truncated {s : State} {b : List Byte} {rest : List Slot} (hf : s.fault = [])
    (hi : s.inputs = .port (.frame b) :: rest) (hb : codecDecode b = none) :
    step s = exec (.frameDeliver 0 b) { s with inputs := rest } := by
  have hfetch : s.fetch = .run (.frameDeliver 0 b) := by
    simp only [State.fetch, hi, fetchPort, decode_frame_error (decodeFrame_none hb)]
  rw [step_run hf hfetch, advance_eq hi]

/-- FRAME_DELIVER drops them silently in READY (R105, R109). -/
theorem exec_frameDeliver_truncated {s : State} {ch : ChannelId} {b : List Byte} (hp : s.seqPhase = .ready)
    (hh : s.held = []) (hb : codecDecode b = none) :
    exec (.frameDeliver ch b) s = .next (s.emit (.dropRx .truncated)) := by
  refine (whenReady_free hp hh).trans ?_
  simp only [deliver, decodeFrame_none hb, commit_ok]

theorem step_pins {s : State} {v : Byte} {rest : List Slot} (hf : s.fault = []) (hi : s.inputs = .pins v :: rest) :
    step s = .next { s with inputs := rest, pinReg := v } := by
  simp only [step, hf, State.fetch, hi, advance_eq hi]

/-- A step of PERIPH in terms of a condition that says when it is enabled. -/
theorem step_periph_iff {s : State} {e : PeriphStep} {rest : List Slot} {P : Prop} [Decidable P] (hf : s.fault = [])
    (hi : s.inputs = .periph e :: rest) (hP : periphEnabled e s = true ↔ P) :
    step s = if P then exec e.toInstr { s with inputs := rest } else .next { s with inputs := rest } := by
  rw [step_periph hf hi, advance_eq hi]
  exact if_congr hP rfl rfl

/-- Settles O9: a refused word or a step that is not enabled only takes its choice; PINS and a rejected frame do as they say. -/
theorem otherChoicesOfTheInputList : Obligations.OtherChoicesOfTheInputList := by
  intro s rest hf
  refine ⟨fun w hi hw => step_port_refused hf hi (decodeIfc_reserved hw),
    fun w n hi hw hn hch => step_port_refused hf hi (decodeIfc_noChannel hw (isChannel_eq_false hn hch)),
    fun v hi => step_pins hf hi, fun b hi hb => ⟨step_port_truncated hf hi hb, fun hp hh => ?_⟩,
    fun hi => step_periph_iff hf hi (periphEnabled_txe s), fun hi => step_periph_iff hf hi (periphEnabled_nack s),
    fun b hi => step_periph_iff hf hi (periphEnabled_rxf b s),
    fun hi => step_periph_iff hf hi (periphEnabled_stopdone s)⟩
  rw [step_port_truncated hf hi hb]
  exact exec_frameDeliver_truncated (s := { s with inputs := rest }) hp hh hb

/-! ### Operations that wait -/

/-- A direct call on an idle engine is kept while SEQ cannot start it (R32; log 15). -/
theorem directCall_held {i : Instr} {c : Call} {s : State} (hs : s.engState = .idle)
    (h : s.seqPhase ≠ .ready ∨ s.held ≠ []) : directCall i c s = s.hold i := by
  have hfree : s.seqFree = false := by
    rw [Bool.eq_false_iff, ne_eq, seqFree_iff]
    tauto
  simp [directCall, hs, hfree]

/-- Settles O10: every SEQ operation starts through `whenReady` or `directCall`. -/
theorem seqOperationsWaitTheirTurn : Obligations.SeqOperationsWaitTheirTurn := by
  intro s h
  refine ⟨fun c => (exec_toInstr c s).trans (whenReady_held h), fun ch b => whenReady_held h,
    whenReady_held (act := fun u => .ok u.poll) h, fun v => whenReady_held (act := fun u => .ok (u.gpioChange v)) h,
    fun op corr p => whenReady_held (act := fun u => .ok (u.dispSend op corr p)) h,
    fun hs => ⟨fun a data => ?_, fun a n => ?_⟩⟩
  · exact congrArg Host.Outcome.next (directCall_held hs h)
  · exact congrArg Host.Outcome.next (directCall_held hs h)

/-! ### The end of a wait -/

/-- With SEQ next and inside an operation, the step is the next part of that operation. -/
theorem step_resumeSeq {s : State} {rest : List Slot} (hf : s.fault = []) (hi : s.seqIsNext rest)
    (hp : s.seqPhase ≠ .ready) : step s = .next (resumeSeq { s with inputs := rest }) := by
  rw [step_seqIsNext hf hi]
  exact seqStep_busy hp

/-- The first fault entered is the only one. -/
theorem enterFault_of_nil {s : State} (hf : s.fault = []) (f : Fault) : s.enterFault f = { s with fault := [f] } := by
  simp [State.enterFault, hf]

/-- The response to a read request, written out from R67 and R68 for the result that R84 gives the read. -/
theorem readResponse_of_engResult {s : State} {bytes : List Byte} (hd : s.engDir = .r)
    (h : s.engErr = .none → bytes.length = s.engLen.toNat ∧ ∀ j < s.engLen.toNat, s.engBuf.get j = bytes[j]?) :
    ∃ r, engResult s = .ok r ∧
      readResponse s.dispCtx.addr (statusByte (!s.dispCtx.wok || r.isErr) (readCount r s.dispCtx.rlen)) s.dispCtx.sel
          r.bytes =
        (s.dispCtx.addr.setWidth 8 ||| 0x80) ::
          ((if s.dispCtx.wok = true ∧ s.engErr = .none then 0x00 else 0x40) |||
            (if s.engErr = .none then s.dispCtx.rlen.setWidth 8 else 0)) ::
          (s.dispCtx.sel ++ if s.engErr = .none then bytes else []) := by
  cases he : s.engErr with
  | none =>
    obtain ⟨hlen, hget⟩ := h he
    refine ⟨.okRead bytes, engResult_read he hd hlen hget, ?_⟩
    cases hw : s.dispCtx.wok <;>
      simp [readResponse, statusByte, statusErr, readCount, CallResult.isErr, CallResult.bytes]
  | noack =>
    refine ⟨.err .noAck, engResult_err (by rw [he]; rfl), ?_⟩
    simp [readResponse, statusByte, statusErr, readCount, CallResult.isErr, CallResult.bytes]
  | timeout =>
    refine ⟨.err .timeout, engResult_err (by rw [he]; rfl), ?_⟩
    simp [readResponse, statusByte, statusErr, readCount, CallResult.isErr, CallResult.bytes]

/-- Settles O38: in RD_WAIT the step is `finishRead` of the result, or the fault of reading it. -/
theorem readRequestIsAnswered : Obligations.ReadRequestIsAnswered := by
  intro s rest hf hi hp hdone hd
  have hstep := step_resumeSeq hf hi (by simp [hp])
  refine ⟨fun bytes h => ?_, fun he hb => ?_⟩
  · obtain ⟨r, hr, hresp⟩ := readResponse_of_engResult (s := { s with inputs := rest }) hd h
    refine ⟨_, by rw [hstep, resumeSeq_rdWait (s := { s with inputs := rest }) hp hdone hr]; rfl, ?_⟩
    exact hresp ▸ dispSend_sends ..
  · rw [hstep, resumeSeq_rdWait_fault (s := { s with inputs := rest }) hp hdone (engResult_unwritten he hd hb),
      enterFault_of_nil (s := { s with inputs := rest }) hf]

/-- Settles O44: in the wait of a direct call the step is `finishCall` of the result, or the fault of reading it. -/
theorem callReturnsItsResult : Obligations.CallReturnsItsResult := by
  intro s rest hf hi hp hdone
  have hstep := step_resumeSeq hf hi (by simp [hp])
  refine ⟨fun bytes h => ?_, fun he hd hb => ?_⟩
  · rw [hstep, resumeSeq_callWait (s := { s with inputs := rest }) hp hdone (engResult_eq h)]
    rfl
  · rw [hstep, resumeSeq_callWait_fault (s := { s with inputs := rest }) hp hdone (engResult_unwritten he hd hb),
      enterFault_of_nil (s := { s with inputs := rest }) hf]

end Sys2Proof.Machine
end

section
/-! PROOFS: the encodings (30_encoding.md). The decode table selects a command's row from the header and `p[0]` that its encoding has,
so every well-formed command decodes back; and every frame is the encoding of a well-formed command, so the decoder gives
exactly that one. -/
namespace Sys2Proof

/-! ### What a row's masks leave of a header and of `p[0]` -/

/-- The mask 0xFF leaves a whole header. -/
@[simp] theorem and_headerMask (b0 : Byte) : b0 &&& 0xFF#8 = b0 := BitVec.and_allOnes

/-- The mask 0xE0 leaves the `op_type` of a header (R58). -/
@[simp] theorem headerByte_and_opMask (op : OpType) {n : Nat} (h : n ≤ 28) :
    headerByte op n &&& 0xE0#8 = op.setWidth 8 <<< 5 := by
  have key : ∀ op : BitVec 3, ∀ n : Fin 29, headerByte op n.val &&& 0xE0#8 = op.setWidth 8 <<< 5 := by decide
  exact key op ⟨n, by omega⟩

/-- Two headers are the same only with the same `op_type` and the same length. -/
theorem headerByte_inj {op op' : OpType} {n m : Nat} (hn : n ≤ 28) (hm : m ≤ 28) :
    headerByte op n = headerByte op' m ↔ op = op' ∧ n = m := by
  constructor
  · intro h
    have hop := congrArg opTypeField h
    have hlen := congrArg lengthField h
    rw [opTypeField_headerByte op hn, opTypeField_headerByte op' hm] at hop
    rw [lengthField_headerByte op hn, lengthField_headerByte op' hm] at hlen
    exact ⟨hop, by omega⟩
  · rintro ⟨rfl, rfl⟩
    rfl

/-- The header of row 1, an I2C frame with no payload (R74). -/
@[simp] theorem headerByte_eq_i2cEmpty (op : OpType) {n : Nat} (h : n ≤ 28) : headerByte op n = 0x03#8 ↔ op = 0 ∧ n = 0 :=
  headerByte_inj (op' := 0) (m := 0) h (by decide)

/-- The header of row 2, a GPIO frame with no payload (R74). -/
@[simp] theorem headerByte_eq_gpioEmpty (op : OpType) {n : Nat} (h : n ≤ 28) : headerByte op n = 0x23#8 ↔ op = 1 ∧ n = 0 :=
  headerByte_inj (op' := 1) (m := 0) h (by decide)

/-- The header of row 9, an I2C frame with one payload byte (R74). -/
@[simp] theorem headerByte_eq_i2cReadShort (op : OpType) {n : Nat} (h : n ≤ 28) :
    headerByte op n = 0x04#8 ↔ op = 0 ∧ n = 1 :=
  headerByte_inj (op' := 0) (m := 1) h (by decide)

/-- The mask 0x80 leaves the direction of an I2C `p[0]` (R64). -/
@[simp] theorem append_and_directionMask (d : BitVec 1) (a : Addr7) :
    (d ++ a : BitVec 8) &&& 0x80#8 = d ++ (0 : Addr7) := by
  have key : ∀ d : BitVec 1, ∀ a : BitVec 7, (d ++ a : BitVec 8) &&& 0x80#8 = d ++ (0 : BitVec 7) := by decide
  exact key d a

/-- The mask 0x1F leaves the group of a GPIO `p[0]` (R69). -/
@[simp] theorem and_groupMask (p0 : Byte) : p0 &&& 0x1F#8 = (groupField p0).setWidth 8 := by
  have key : ∀ p0 : BitVec 8, p0 &&& 0x1F#8 = (groupField p0).setWidth 8 := by decide
  exact key p0

/-- The groups' rows of the table test for different groups. -/
@[simp] theorem group_setWidth_beq (g g' : GroupId) : (g.setWidth 8 == g'.setWidth 8) = (g == g') := by
  have key : ∀ g g' : BitVec 5, (g.setWidth 8 == g'.setWidth 8) = (g == g') := by decide
  exact key g g'

/-! ### The row of each command (R74)

A row is selected when its tests pass and those of the rows before it fail. -/

section
variable {groups : List GroupId} {n : Nat}

theorem selectRow_i2cReadShort (a : Addr7) :
    selectRow groups (headerByte 0 1) (some ((1 : BitVec 1) ++ a)) = some .i2cReadShort := by
  simp [selectRow, frameTable, RowPattern.fits]

theorem selectRow_i2cRead (h2 : 2 ≤ n) (h : n ≤ 28) (a : Addr7) :
    selectRow groups (headerByte 0 n) (some ((1 : BitVec 1) ++ a)) = some .i2cRead := by
  have h0 : n ≠ 0 := by omega
  have h1 : n ≠ 1 := by omega
  simp [selectRow, frameTable, RowPattern.fits, h, h0, h1]

theorem selectRow_i2cWrite (h1 : 1 ≤ n) (h : n ≤ 28) (a : Addr7) :
    selectRow groups (headerByte 0 n) (some ((0 : BitVec 1) ++ a)) = some .i2cWrite := by
  have h0 : n ≠ 0 := by omega
  simp [selectRow, frameTable, RowPattern.fits, h, h0]

theorem selectRow_gpioRead (h1 : 1 ≤ n) (h : n ≤ 28) (r : BitVec 1) (u : BitVec 2) {g : GroupId} (hg : g ∈ groups) :
    selectRow groups (headerByte 1 n) (some (r ++ u ++ g : BitVec 8)) = some .gpioRead := by
  have h0 : n ≠ 0 := by omega
  obtain ⟨-, -, hgroup⟩ := gpioFields_append r u g
  obtain ⟨g', hfind⟩ : ∃ g', groups.find? (g == ·) = some g' :=
    Option.isSome_iff_exists.mp (List.find?_isSome.mpr ⟨g, hg, beq_self_eq_true g⟩)
  simp [selectRow, frameTable, RowPattern.fits, h, h0, hgroup, hfind]

theorem selectRow_gpioBadgroup (h1 : 1 ≤ n) (h : n ≤ 28) (r : BitVec 1) (u : BitVec 2) {g : GroupId} (hg : g ∉ groups) :
    selectRow groups (headerByte 1 n) (some (r ++ u ++ g : BitVec 8)) = some .gpioBadgroup := by
  have h0 : n ≠ 0 := by omega
  obtain ⟨-, -, hgroup⟩ := gpioFields_append r u g
  have hfind : groups.find? (g == ·) = none :=
    List.find?_eq_none.mpr fun g' hmem heq => hg (eq_of_beq heq ▸ hmem)
  simp [selectRow, frameTable, RowPattern.fits, h, h0, hgroup, hfind]

end

/-! ### The frame of each command -/

/-- The frame a command is laid out in (R64, R65, R66, R69). -/
def FrameCmd.frame : FrameCmd → Frame
  | .i2cEmpty q c => ⟨0, q, c, []⟩
  | .gpioEmpty q c => ⟨1, q, c, []⟩
  | .rsvdOp2 q c p => ⟨2, q, c, p⟩
  | .rsvdOp3 q c p => ⟨3, q, c, p⟩
  | .rsvdOp4 q c p => ⟨4, q, c, p⟩
  | .rsvdOp5 q c p => ⟨5, q, c, p⟩
  | .rsvdOp6 q c p => ⟨6, q, c, p⟩
  | .rsvdOp7 q c p => ⟨7, q, c, p⟩
  | .i2cReadShort q c a => ⟨0, q, c, [(1 : BitVec 1) ++ a]⟩
  | .i2cRead q c a u n sel => ⟨0, q, c, ((1 : BitVec 1) ++ a) :: (u ++ n) :: sel⟩
  | .i2cWrite q c a data => ⟨0, q, c, ((0 : BitVec 1) ++ a) :: data⟩
  | .gpioRead q c r u g rest => ⟨1, q, c, (r ++ u ++ g : BitVec 8) :: rest⟩
  | .gpioBadgroup q c r u g rest => ⟨1, q, c, (r ++ u ++ g : BitVec 8) :: rest⟩

/-- The bytes of a command are those of its frame (R58). -/
theorem encodeCommand_eq (c : FrameCmd) :
    encodeCommand c = c.frame.header :: c.frame.seq :: c.frame.corr :: c.frame.payload := by
  cases c <;> rfl

/-- A well-formed command fits a frame (R59). -/
theorem FrameCmd.frame_payload_length {groups : List GroupId} {c : FrameCmd} (h : c.wellFormed groups = true) :
    c.frame.payload.length ≤ 28 := by
  cases c with
  | i2cEmpty | gpioEmpty | i2cReadShort => exact of_decide_eq_true rfl
  | rsvdOp2 | rsvdOp3 | rsvdOp4 | rsvdOp5 | rsvdOp6 | rsvdOp7 | i2cRead | i2cWrite => exact of_decide_eq_true h
  | gpioRead | gpioBadgroup => exact of_decide_eq_true ((Bool.and_eq_true _ _).mp h).2

/-- CODEC_DECODE gives the frame of a command's bytes back (R105). -/
theorem codecDecode_encodeCommand {groups : List GroupId} {c : FrameCmd} (h : c.wellFormed groups = true) :
    codecDecode (encodeCommand c) = some c.frame := by
  rw [encodeCommand_eq]
  exact codecDecode_whole _ _ _ (FrameCmd.frame_payload_length h)

/-- The row of the decode table that a command stands on (R74). -/
def FrameCmd.row : FrameCmd → RowName
  | .i2cEmpty .. => .i2cEmpty
  | .gpioEmpty .. => .gpioEmpty
  | .rsvdOp2 .. => .rsvdOp2
  | .rsvdOp3 .. => .rsvdOp3
  | .rsvdOp4 .. => .rsvdOp4
  | .rsvdOp5 .. => .rsvdOp5
  | .rsvdOp6 .. => .rsvdOp6
  | .rsvdOp7 .. => .rsvdOp7
  | .i2cReadShort .. => .i2cReadShort
  | .i2cRead .. => .i2cRead
  | .i2cWrite .. => .i2cWrite
  | .gpioRead .. => .gpioRead
  | .gpioBadgroup .. => .gpioBadgroup

/-- The first row that matches a well-formed command's frame is the command's own (R74). -/
theorem selectRow_frame {groups : List GroupId} {c : FrameCmd} (h : c.wellFormed groups = true) :
    selectRow groups c.frame.header c.frame.payload.head? = some c.row := by
  have hlen := FrameCmd.frame_payload_length h
  cases c with
  | i2cEmpty | gpioEmpty | rsvdOp2 | rsvdOp3 | rsvdOp4 | rsvdOp5 | rsvdOp6 | rsvdOp7 =>
    simp only [FrameCmd.frame] at hlen
    simp [FrameCmd.frame, FrameCmd.row, Frame.header, Frame.length, selectRow, frameTable, RowPattern.fits, hlen]
  | i2cReadShort q c a => exact selectRow_i2cReadShort a
  | i2cRead q c a u n sel => exact selectRow_i2cRead (Nat.le_add_left ..) hlen a
  | i2cWrite q c a data => exact selectRow_i2cWrite (Nat.le_add_left ..) hlen a
  | gpioRead q c r u g rest =>
    obtain ⟨hg, -⟩ := (Bool.and_eq_true _ _).mp h
    exact selectRow_gpioRead (Nat.le_add_left ..) hlen r u (of_decide_eq_true hg)
  | gpioBadgroup q c r u g rest =>
    obtain ⟨hg, -⟩ := (Bool.and_eq_true _ _).mp h
    exact selectRow_gpioBadgroup (Nat.le_add_left ..) hlen r u (of_decide_eq_true hg)

/-- The decode table gives a well-formed command back: its operands are the fields of its own bytes (R63 to R69). -/
theorem decodeCommand_frame {groups : List GroupId} {c : FrameCmd} (h : c.wellFormed groups = true) :
    decodeCommand groups c.frame = .ok c := by
  unfold decodeCommand
  rw [selectRow_frame h]
  cases c with
  | i2cEmpty | gpioEmpty => rfl
  | rsvdOp2 | rsvdOp3 | rsvdOp4 | rsvdOp5 | rsvdOp6 | rsvdOp7 => rfl
  | i2cReadShort q c a | i2cWrite q c a data => simp [FrameCmd.row, FrameCmd.frame, addressField_append]
  | i2cRead q c a u n sel =>
    simp [FrameCmd.row, FrameCmd.frame, addressField_append, readUnusedField_append, readLengthField_append]
  | gpioRead q c r u g rest | gpioBadgroup q c r u g rest =>
    obtain ⟨hreq, hunused, hgroup⟩ := gpioFields_append r u g
    simp [FrameCmd.row, FrameCmd.frame, hreq, hunused, hgroup]

/-! ### Every frame is the frame of a command -/

/-- An I2C `p[0]` is its direction and its address (R64). -/
theorem append_i2cFields (p0 : Byte) : directionField p0 ++ addressField p0 = p0 := by
  have key : ∀ p0 : BitVec 8, directionField p0 ++ addressField p0 = p0 := by decide
  exact key p0

/-- A read request's `p[1]` is its unused bits and its read length (R66). -/
theorem append_readFields (p1 : Byte) : readUnusedField p1 ++ readLengthField p1 = p1 := by
  have key : ∀ p1 : BitVec 8, readUnusedField p1 ++ readLengthField p1 = p1 := by decide
  exact key p1

/-- A GPIO `p[0]` is its request bit, its unused bits and its group (R69). -/
theorem append_gpioFields (p0 : Byte) : (isRequestField p0 ++ gpioUnusedField p0 ++ groupField p0 : BitVec 8) = p0 := by
  have key : ∀ p0 : BitVec 8, (isRequestField p0 ++ gpioUnusedField p0 ++ groupField p0 : BitVec 8) = p0 := by decide
  exact key p0

/-- Every I2C frame is the frame of a well-formed command. -/
theorem exists_frame_i2c (groups : List GroupId) (q c : Byte) {p : List Byte} (h : p.length ≤ 28) :
    ∃ cmd : FrameCmd, cmd.wellFormed groups = true ∧ cmd.frame = ⟨0, q, c, p⟩ := by
  match p, h with
  | [], _ => exact ⟨.i2cEmpty q c, rfl, rfl⟩
  | p0 :: rest, h =>
    have hp0 := append_i2cFields p0
    rcases BitVec.eq_zero_or_eq_one (directionField p0) with hd | hd <;> rw [hd] at hp0
    · exact ⟨.i2cWrite q c (addressField p0) rest, decide_eq_true h, congrArg (fun b => Frame.mk 0 q c (b :: rest)) hp0⟩
    · match rest, h with
      | [], _ => exact ⟨.i2cReadShort q c (addressField p0), rfl, congrArg (fun b => Frame.mk 0 q c [b]) hp0⟩
      | p1 :: sel, h =>
        exact ⟨.i2cRead q c (addressField p0) (readUnusedField p1) (readLengthField p1) sel, decide_eq_true h,
          congrArg₂ (fun b b' => Frame.mk 0 q c (b :: b' :: sel)) hp0 (append_readFields p1)⟩

/-- Every GPIO frame is the frame of a well-formed command. -/
theorem exists_frame_gpio (groups : List GroupId) (q c : Byte) {p : List Byte} (h : p.length ≤ 28) :
    ∃ cmd : FrameCmd, cmd.wellFormed groups = true ∧ cmd.frame = ⟨1, q, c, p⟩ := by
  match p, h with
  | [], _ => exact ⟨.gpioEmpty q c, rfl, rfl⟩
  | p0 :: rest, h =>
    have hfit : rest.length + 1 ≤ maxDecodedPayload := h
    by_cases hg : groupField p0 ∈ groups
    · exact ⟨.gpioRead q c (isRequestField p0) (gpioUnusedField p0) (groupField p0) rest,
        by simp [FrameCmd.wellFormed, hg, hfit], by rw [FrameCmd.frame, append_gpioFields]⟩
    · exact ⟨.gpioBadgroup q c (isRequestField p0) (gpioUnusedField p0) (groupField p0) rest,
        by simp [FrameCmd.wellFormed, hg, hfit], by rw [FrameCmd.frame, append_gpioFields]⟩

/-- The values of `op_type` (R62). -/
theorem opType_cases (op : OpType) :
    op = 0 ∨ op = 1 ∨ op = 2 ∨ op = 3 ∨ op = 4 ∨ op = 5 ∨ op = 6 ∨ op = 7 := by
  have key : ∀ op : BitVec 3, op = 0 ∨ op = 1 ∨ op = 2 ∨ op = 3 ∨ op = 4 ∨ op = 5 ∨ op = 6 ∨ op = 7 := by decide
  exact key op

/-- Every frame is the frame of a well-formed command, so the decode table has a row for it (R74). -/
theorem exists_frame (groups : List GroupId) {f : Frame} (h : f.payload.length ≤ 28) :
    ∃ cmd : FrameCmd, cmd.wellFormed groups = true ∧ cmd.frame = f := by
  obtain ⟨op, q, c, p⟩ := f
  rcases opType_cases op with rfl | rfl | rfl | rfl | rfl | rfl | rfl | rfl
  · exact exists_frame_i2c groups q c h
  · exact exists_frame_gpio groups q c h
  · exact ⟨.rsvdOp2 q c p, decide_eq_true h, rfl⟩
  · exact ⟨.rsvdOp3 q c p, decide_eq_true h, rfl⟩
  · exact ⟨.rsvdOp4 q c p, decide_eq_true h, rfl⟩
  · exact ⟨.rsvdOp5 q c p, decide_eq_true h, rfl⟩
  · exact ⟨.rsvdOp6 q c p, decide_eq_true h, rfl⟩
  · exact ⟨.rsvdOp7 q c p, decide_eq_true h, rfl⟩

/-! ### The decoder -/

/-- A command is encoded as its frame (R58). -/
theorem encode_toInstr (c : FrameCmd) : encode c.toInstr = .frame (encodeCommand c) := by
  cases c <;> rfl

/-- A command is a well-formed instruction when it is well-formed for the core's pin groups (R59, R74). -/
theorem wellFormed_toInstr (p : Params) (c : FrameCmd) : c.toInstr.wellFormed p = c.wellFormed p.supportedGroups := by
  cases c <;> rfl

/-- An operation with a channel of CHANNEL_ID is one (R7). -/
theorem withChannel_ok {p : Params} {ch : ChannelId} (i : Instr) (h : p.isChannel ch = true) :
    withChannel p ch i = .ok i := if_pos h

/-- The bytes of a well-formed command decode to it. -/
theorem decode_encodeCommand {p : Params} {c : FrameCmd} (h : c.wellFormed p.supportedGroups = true) :
    decode p (.frame (encodeCommand c)) = .ok c.toInstr := by
  apply decode_frame_ok
  rw [decodeFrame_some (codecDecode_encodeCommand h), decodeCommand_frame h]

/-- Settles O1: a command's bytes decode to it by `decode_encodeCommand`, and an interface word's code selects its operation. -/
theorem decodeOfEncodeIsTheInstruction : Obligations.DecodeOfEncodeIsTheInstruction := by
  intro p i h
  cases i using Machine.Instr.command_cases with
  | command c =>
    rw [wellFormed_toInstr] at h
    rw [encode_toInstr, decode_encodeCommand h]
  | linkOpen ch => exact withChannel_ok _ h
  | frameDeliver ch b => exact withChannel_ok _ h
  | _ => rfl

/-- Settles O2: an accepted frame is the frame of some well-formed command, and that command is what the table answers. -/
theorem acceptedFrameIsACommand : Obligations.AcceptedFrameIsACommand := by
  intro p b
  refine ⟨fun f hf => ?_, fun hb => decode_frame_error (decodeFrame_none hb)⟩
  obtain ⟨-, hlen, hbytes⟩ := codecDecode_header hf
  obtain ⟨c, hc, rfl⟩ := exists_frame p.supportedGroups hlen
  have hdec := decodeCommand_frame hc
  exact ⟨c, hdec, hc, (encodeCommand_eq c).trans hbytes.symm, decode_frame_ok ((decodeFrame_some hf).trans hdec)⟩

/-- Settles O4: each word is the encoding of its instruction, so O1 decodes it; the last two are rejected by name. -/
theorem wordsDecodeAsWritten : Obligations.WordsDecodeAsWritten :=
  ⟨decodeOfEncodeIsTheInstruction .default (.i2cRead 0x07 0xFF 0x50 0 2 [0x10]) rfl,
    decodeOfEncodeIsTheInstruction .default (.i2cWrite 0x01 0xFF 0x3C [0xAA, 0xBB]) rfl,
    decodeOfEncodeIsTheInstruction .default (.gpioRead 0x09 0xFF 1 0 2 []) rfl,
    decodeOfEncodeIsTheInstruction .default (.gpioBadgroup 0x0A 0xFF 1 0 3 []) rfl,
    decodeOfEncodeIsTheInstruction .default (.rsvdOp2 0x05 0xFF []) rfl,
    decodeOfEncodeIsTheInstruction .default .evTxe rfl,
    decodeOfEncodeIsTheInstruction .default (.evRxf 0x5A) rfl,
    Machine.decodeIfc_reserved (p := .default) (w := { opc := 0 }) rfl,
    decode_frame_error (decodeFrame_none rfl)⟩

end Sys2Proof
end

section
/-! PROOFS: the engine's calls and SEQ's waits (40_i2c_engine.md, sections 1 and 2). Each call is one case of `engCall`: it returns at
once, arms the engine, stands at the STOP gate or meets a fault; and each operation that makes a call goes the way its call went. -/
namespace Sys2Proof.Machine

/-! ### What follows a call that waits or meets a fault -/

theorem directCall_error {i : Instr} {c : Call} {s : State} {f : Fault} (h : s.engState = .idle)
    (hp : s.seqPhase = .ready) (hh : s.held = []) (hf : engCall .callWait c s = .error f) :
    directCall i c s = s.enterFault f := by
  simp [directCall, h, State.seqFree, hp, hh, hf]

theorem startWrite_waiting {q : Byte} {a : Addr7} {data : List Byte} {s t : State}
    (h : engCall .wWait (.write a data)
      { s with seqPhase := .wWait, dispCtx := { s.dispCtx with rseq := q, addr := a, data := data } } = .ok (.waiting t)) :
    startWrite q a data s = .ok t := by
  simp only [startWrite, h]

theorem startWrite_error {q : Byte} {a : Addr7} {data : List Byte} {s : State} {f : Fault}
    (h : engCall .wWait (.write a data)
      { s with seqPhase := .wWait, dispCtx := { s.dispCtx with rseq := q, addr := a, data := data } } = .error f) :
    startWrite q a data s = .error f := by
  simp only [startWrite, h]

theorem startRead_waiting {q : Byte} {a : Addr7} {n : BitVec 5} {sel : List Byte} {s t : State}
    (h : engCall .selWait (.write a sel)
      { s with seqPhase := .selWait, dispCtx := { s.dispCtx with rseq := q, addr := a, sel := sel, rlen := n } } =
        .ok (.waiting t)) :
    startRead q a n sel s = .ok t := by
  simp only [startRead, h]

theorem startRead_error {q : Byte} {a : Addr7} {n : BitVec 5} {sel : List Byte} {s : State} {f : Fault}
    (h : engCall .selWait (.write a sel)
      { s with seqPhase := .selWait, dispCtx := { s.dispCtx with rseq := q, addr := a, sel := sel, rlen := n } } =
        .error f) :
    startRead q a n sel s = .error f := by
  simp only [startRead, h]

/-- With no select bytes the select write returns at once, and the read phase follows in the same step (R113; log 20). -/
theorem startRead_nil {q : Byte} {a : Addr7} {n : BitVec 5} {s : State} (h : s.engState = .idle) :
    startRead q a n [] s = finishSelect .okWrite
      { s with seqPhase := .selWait, dispCtx := { s.dispCtx with rseq := q, addr := a, sel := [], rlen := n } } := by
  simp only [startRead, engCall_write_empty (s := { s with seqPhase := .selWait, dispCtx := _ }) a h]

theorem finishSelect_waiting {w : CallResult} {s t : State}
    (h : engCall .rdWait (.read s.dispCtx.addr (s.dispCtx.rlen.setWidth 8))
      { s with seqPhase := .rdWait, dispCtx := { s.dispCtx with wok := !w.isErr } } = .ok (.waiting t)) :
    finishSelect w s = .ok t := by
  simp only [finishSelect, h]

/-! ### Calls that are refused, return at once, or arm the engine -/

/-- Settles O42: `directCall` tests the engine first. -/
theorem busyEngineRefusesCalls : Obligations.BusyEngineRefusesCalls := by
  intro a data n s hs
  exact ⟨congrArg Host.Outcome.next (directCall_busy hs), congrArg Host.Outcome.next (directCall_busy hs)⟩

/-- Settles O41: a call of length 0 returns before the STOP gate. -/
theorem zeroLengthCallReturnsAtOnce : Obligations.ZeroLengthCallReturnsAtOnce := by
  intro a s hs hp hh
  exact ⟨congrArg Host.Outcome.next (directCall_returned hs hp hh (engCall_write_empty a hs)),
    congrArg Host.Outcome.next (directCall_returned hs hp hh (engCall_read_zero a 0 hs rfl))⟩

/-- Settles O43: the length is tested before anything of the call is done. -/
theorem tooLongWriteFaults : Obligations.TooLongWriteFaults := by
  intro a data s hs hp hh hlen
  refine ⟨congrArg Host.Outcome.next (directCall_error hs hp hh (engCall_tooLong hs hlen)),
    fun seq corr => (whenReady_free hp hh).trans ?_, fun seq corr unused rlen => (whenReady_free hp hh).trans ?_⟩
  · rw [startWrite_error (engCall_tooLong hs hlen)]
    rfl
  · rw [startRead_error (engCall_tooLong hs hlen)]
    rfl

/-- Settles O39: the engine's part is `engCall_write_arms`. -/
theorem engWriteArmsTheEngine : Obligations.EngWriteArmsTheEngine := by
  intro a data s hs hp hh hstop h0 hm
  obtain ⟨t, ht, harm⟩ := engCall_write_arms (p := .callWait) (a := a) hs h0 hm hstop
  exact ⟨t, congrArg Host.Outcome.next (directCall_waiting hs hp hh ht), harm⟩

/-- Settles O40: the engine's part is `engCall_read_arms`. -/
theorem engReadArmsTheEngine : Obligations.EngReadArmsTheEngine := by
  intro a n s hs hp hh hstop h0
  obtain ⟨t, ht, harm⟩ := engCall_read_arms (p := .callWait) (a := a) hs h0 hstop
  exact ⟨t, congrArg Host.Outcome.next (directCall_waiting hs hp hh ht), harm⟩

/-! ### The STOP gate -/

/-- A write that moves a byte is kept at the gate (R81). -/
theorem engCall_write_gate {p : SeqPhase} {s : State} {a : Addr7} {data : List Byte} (hs : s.engState = .idle)
    (h0 : 0 < data.length) (hm : data.length ≤ 255) (hstop : s.pStopPending = true) :
    engCall p (.write a data) s = .ok (.waiting { s with
      seqPhase := .stopHold, dispCtx := { s.dispCtx with pending := .write a data, resume := p } }) :=
  engCall_gate hs (Nat.ne_of_gt h0) hm hstop

/-- A read that moves a byte is kept at the gate (R81). -/
theorem engCall_read_gate {p : SeqPhase} {s : State} {a : Addr7} {n : Byte} (hs : s.engState = .idle) (h0 : n ≠ 0)
    (hstop : s.pStopPending = true) :
    engCall p (.read a n) s = .ok (.waiting { s with
      seqPhase := .stopHold, dispCtx := { s.dispCtx with pending := .read a n, resume := p } }) := by
  refine engCall_gate hs (fun h => h0 ?_) (Call.length_read_le a n) hstop
  exact BitVec.eq_of_toNat_eq h

/-- A read length that is not 0 stays so as the byte count of the read (R113). -/
theorem setWidth_rlen_ne_zero {n : BitVec 5} (h : n ≠ 0) : n.setWidth 8 ≠ 0 := by
  bv_omega

/-- Settles O34: an I2C read without select bytes comes to the gate with its read, every other call as it starts. -/
theorem callsWaitForThePendingStop : Obligations.CallsWaitForThePendingStop := by
  intro s hp hh hs hstop
  refine ⟨fun seq corr a data h0 hm => (whenReady_free hp hh).trans ?_,
    fun seq corr a unused rlen sel h0 hm => (whenReady_free hp hh).trans ?_,
    fun seq corr a unused rlen h0 => (whenReady_free hp hh).trans ?_, fun a data h0 hm => ?_, fun a n h0 => ?_⟩
  · rw [startWrite_waiting (engCall_write_gate hs h0 hm hstop)]
    rfl
  · rw [startRead_waiting (engCall_write_gate hs h0 hm hstop)]
    rfl
  · have hgate := engCall_read_gate (p := .rdWait) (a := a)
      (s := { s with seqPhase := .rdWait, dispCtx := { s.dispCtx with rseq := seq, addr := a, sel := [], rlen, wok := true } })
      hs (setWidth_rlen_ne_zero h0) hstop
    rw [startRead_nil hs, finishSelect_waiting hgate]
    rfl
  · exact congrArg Host.Outcome.next (directCall_waiting hs hp hh (engCall_write_gate hs h0 hm hstop))
  · exact congrArg Host.Outcome.next (directCall_waiting hs hp hh (engCall_read_gate hs h0 hstop))

/-- Settles O35: SEQ's step in STOP_HOLD arms the kept call as R82 and R83 say. -/
theorem stopHoldEndsByArming : Obligations.StopHoldEndsByArming := by
  intro s rest hf hi hp hstop
  have hstep := step_resumeSeq hf hi (by simp [hp])
  refine ⟨fun a data hc _ hm => ?_, fun a n hc _ => ?_⟩
  · obtain ⟨t, ht, ⟨buf, hget, rfl⟩, -⟩ := arm_write (s := { s with inputs := rest }) (a := a) (data := data) hm
    have hres := resumeSeq_stopHold (s := { s with inputs := rest }) hp hstop (hc ▸ ht)
    exact ⟨_, hstep.trans (congrArg Host.Outcome.next hres), buf, hget, rfl⟩
  · obtain ⟨t, ht, rfl⟩ := arm_read { s with inputs := rest } a n
    have hres := resumeSeq_stopHold (s := { s with inputs := rest }) hp hstop (hc ▸ ht)
    exact ⟨_, hstep.trans (congrArg Host.Outcome.next hres), rfl⟩

/-! ### SEQ's waits -/

/-- In STOP_HOLD SEQ stays while the STOP is pending (R81). -/
theorem resumeSeq_stopHold_waiting {s : State} (hp : s.seqPhase = .stopHold) (hstop : s.pStopPending = true) :
    resumeSeq s = s := by
  simp only [resumeSeq, hp, hstop, if_true]

/-- Settles O12: in each wait `resumeSeq` tests its condition first. -/
theorem seqIsHeldInItsWaits : Obligations.SeqIsHeldInItsWaits := by
  intro s rest hf hi hwait
  have hbusy : s.seqPhase ≠ .ready := by
    rcases hwait with ⟨hp | hp | hp | hp, -⟩ | ⟨hp, -⟩ <;> simp [hp]
  rw [step_resumeSeq hf hi hbusy]
  refine congrArg Host.Outcome.next ?_
  rcases hwait with ⟨hp, hdone⟩ | ⟨hp, hstop⟩
  · exact resumeSeq_waiting hdone fun (hs : s.seqPhase = .stopHold) => by simp [hs] at hp
  · exact resumeSeq_stopHold_waiting hp hstop

end Sys2Proof.Machine
end

section
/-! PROOFS: the engine's events (40_i2c_engine.md, sections 3 and 4). One equation for each case of a handler; the statements about
the events are these equations after the peripheral's report. -/
namespace Sys2Proof.Machine

/-! ### The cases of the TXE handler (R85 to R88) -/

theorem handleTxe_addr {s : State} (hs : s.engState = .addr) : handleTxe s = txeAddr s := by
  cases hd : s.engDir <;> simp only [handleTxe, hs, hd]

theorem handleTxe_xfer_write {s : State} (hs : s.engState = .xfer) (hd : s.engDir = .w) : handleTxe s = txeXfer s := by
  simp only [handleTxe, hs, hd]

theorem handleTxe_compl_write {s : State} (hs : s.engState = .compl) (hd : s.engDir = .w) :
    handleTxe s = .ok (txeCompl s) := by
  simp only [handleTxe, hs, hd]

theorem handleTxe_unexpected {s : State} (h : s.engState = .idle ∨ s.engDir = .r ∧ s.engState ≠ .addr) :
    handleTxe s = .ok s.unexpected := by
  unfold handleTxe
  split <;> simp_all

theorem txeAddr_write {s : State} {b : Byte} (hd : s.engDir = .w) (hb : memRead s.engBuf 0 = .ok b) :
    txeAddr s = .ok { s.emitTx b with engIdx := 1, engState := if s.engLen = 1 then .compl else .xfer } := by
  simp only [txeAddr, hd, hb]

theorem txeAddr_write_error {s : State} {f : Fault} (hd : s.engDir = .w) (hf : memRead s.engBuf 0 = .error f) :
    txeAddr s = .error f := by
  simp only [txeAddr, hd, hf]

theorem txeXfer_ok {s : State} {b : Byte} (hb : memRead s.engBuf s.engIdx.toNat = .ok b) :
    txeXfer s = .ok { s.emitTx b with
      engRem := s.engRem - 1, engIdx := s.engIdx + 1
      engState := if s.engIdx + 1 = s.engLen then .compl else .xfer } := by
  simp only [txeXfer, hb]

theorem txeXfer_error {s : State} {f : Fault} (hf : memRead s.engBuf s.engIdx.toNat = .error f) :
    txeXfer s = .error f := by
  simp only [txeXfer, hf]

/-! ### The cases of the RXF handler (R89 to R91) -/

theorem handleRxf_xfer_read {s : State} {b : Byte} (hs : s.engState = .xfer) (hd : s.engDir = .r) :
    handleRxf b s = rxfXfer b s := by
  simp only [handleRxf, hs, hd]

theorem handleRxf_compl_read {s : State} {b : Byte} (hs : s.engState = .compl) (hd : s.engDir = .r) :
    handleRxf b s = rxfCompl b s := by
  simp only [handleRxf, hs, hd]

theorem handleRxf_unexpected {s : State} {b : Byte} (h : s.engState = .idle ∨ s.engState = .addr ∨ s.engDir = .w) :
    handleRxf b s = .ok s.unexpected := by
  unfold handleRxf
  split <;> simp_all

/-- Where exactly one byte remains after this one, it is stored and STOP is requested (R90). -/
theorem rxfXfer_last {s : State} {b : Byte} (hi : s.engIdx.toNat < maxXfer) (h1 : s.engRem - 1 = 1) :
    rxfXfer b s = .ok { s.emitStop with
      engBuf := s.engBuf.set s.engIdx.toNat b, engIdx := s.engIdx + 1, engRem := s.engRem - 1, engState := .compl } := by
  simp only [rxfXfer, memWrite, if_pos hi, if_pos h1]
  rfl

/-- Elsewhere the byte is only stored (R90). -/
theorem rxfXfer_more {s : State} {b : Byte} (hi : s.engIdx.toNat < maxXfer) (h1 : s.engRem - 1 ≠ 1) :
    rxfXfer b s = .ok { s with
      engBuf := s.engBuf.set s.engIdx.toNat b, engIdx := s.engIdx + 1, engRem := s.engRem - 1 } := by
  simp only [rxfXfer, memWrite, if_pos hi, if_neg h1]

theorem rxfCompl_ok {s : State} {b : Byte} (hi : s.engIdx.toNat < maxXfer) :
    rxfCompl b s = .ok { s with
      engBuf := s.engBuf.set s.engIdx.toNat b, engIdx := s.engIdx + 1, engRem := 0, engState := .idle
      engDone := true } := by
  simp only [rxfCompl, memWrite, if_pos hi]

/-- A byte received with `eng_idx` beyond the buffer enters BUF_RANGE (R45; log 14). -/
theorem handleRxf_bufRange {s : State} {b : Byte} (hs : s.engState = .xfer ∨ s.engState = .compl) (hd : s.engDir = .r)
    (hi : ¬ s.engIdx.toNat < maxXfer) : handleRxf b s = .error .bufRange := by
  rcases hs with hs | hs
  · simp only [handleRxf_xfer_read hs hd, rxfXfer, memWrite, if_neg hi]
  · simp only [handleRxf_compl_read hs hd, rxfCompl, memWrite, if_neg hi]

/-! ### An event is the peripheral's report and the handler (R95) -/

/-- The peripheral's report of TXE, before the handler runs (R96). -/
abbrev State.reportTxe (s : State) : State := s.reported .evTxe (oweAfterTxe s.pOwe)

/-- The peripheral's report of RXF, before the handler runs (R98). -/
abbrev State.reportRxf (s : State) (b : Byte) : State := s.reported (.evRxf b) (oweAfterRxf s.pStopPending s.pOwe)

/-- The peripheral's report of NACK, before the handler runs (R97). -/
abbrev State.reportNack (s : State) : State := s.reported .evNack (oweAfterNack s.pOwe)

theorem exec_evTxe_ok {s t : State} (h : handleTxe s.reportTxe = .ok t) : exec .evTxe s = .next t :=
  congrArg (Host.Outcome.next ∘ commit s) h

theorem exec_evRxf_ok {s t : State} {b : Byte} (h : handleRxf b (s.reportRxf b) = .ok t) : exec (.evRxf b) s = .next t :=
  congrArg (Host.Outcome.next ∘ commit s) h

/-- A handler that meets the first fault leaves nothing of the report either (log 13). -/
theorem exec_evTxe_error {s : State} {f : Fault} (h : handleTxe s.reportTxe = .error f) (hf : s.fault = []) :
    exec .evTxe s = .next { s with fault := [f] } := by
  rw [← enterFault_of_nil hf]
  exact congrArg (Host.Outcome.next ∘ commit s) h

theorem exec_evRxf_error {s : State} {b : Byte} {f : Fault} (h : handleRxf b (s.reportRxf b) = .error f)
    (hf : s.fault = []) : exec (.evRxf b) s = .next { s with fault := [f] } := by
  rw [← enterFault_of_nil hf]
  exact congrArg (Host.Outcome.next ∘ commit s) h

theorem exec_evNack_idle {s : State} (hs : s.engState = .idle) : exec .evNack s = .next s.reportNack.unexpected :=
  congrArg Host.Outcome.next (if_pos hs)

theorem exec_evNack_active {s : State} (hs : s.engState ≠ .idle) :
    exec .evNack s = .next (s.reportNack.abort .noack) :=
  congrArg Host.Outcome.next (if_neg hs)

/-! ### What a handler adds to the report -/

theorem reported_emitTx (s : State) (x : TraceItem) (o : Owe) (b : Byte) :
    (s.reported x o).emitTx b = { s with pOwe := .ackW, trace := s.trace ++ [x, .tx b] } := by
  simp only [State.emitTx, State.emit, List.append_assoc]
  rfl

theorem reported_emitStop (s : State) (x : TraceItem) (o : Owe) :
    (s.reported x o).emitStop =
      { s with pOwe := o, pStopPending := true, engStopreq := true, trace := s.trace ++ [x, .stopReq] } := by
  simp only [State.emitStop, State.emit, List.append_assoc]
  rfl

theorem reported_abort (s : State) (x : TraceItem) (o : Owe) (e : EngErr) :
    (s.reported x o).abort e = { s with
      engErr := e, engState := .idle, engDone := true, pOwe := o, engStopreq := true
      pStopPending := (if s.engStopreq = true then s.pStopPending else true)
      trace := s.trace ++ x :: (if s.engStopreq = true then [] else [.stopReq]) } := by
  simp only [abort_eq, State.emit, List.append_assoc]
  rfl

/-- The peripheral's side of a byte it owes (R98). -/
theorem oweAfterRxf_rx {p : Bool} {o : Owe} (h : o = .rx) : oweAfterRxf p o = if p then .none else .rx := by
  rw [h]
  rfl

/-- After an acknowledged address of a read, reception is on (R96). -/
theorem oweAfterTxe_ackR {o : Owe} (h : o = .ackR) : oweAfterTxe o = .rx := by
  rw [h]
  rfl

/-- After an acknowledged byte of a write nothing is owed (R96). -/
theorem oweAfterTxe_ackW {o : Owe} (h : o = .ackW) : oweAfterTxe o = .none := by
  rw [h]
  rfl

/-- After NACK for a byte nothing is owed (R97). -/
theorem oweAfterNack_ack {o : Owe} (h : o = .ackW ∨ o = .ackR) : oweAfterNack o = .none := by
  rcases h with rfl | rfl <;> rfl

/-! ### TXE -/

/-- Settles O45: the address phase of a write ends with the byte read from the buffer, that of a read by its length. -/
theorem txeEndsTheAddressPhase : Obligations.TxeEndsTheAddressPhase := by
  intro s hs
  have haddr := handleTxe_addr (s := s.reportTxe) hs
  refine ⟨fun b hd hb => ?_, fun hd hlen => ⟨_, oweAfterTxe_ackR, ?_⟩, fun hd hlen => ⟨_, oweAfterTxe_ackR, ?_⟩⟩
  · have hbyte := txeAddr_write (s := s.reportTxe) hd (memRead_ok_iff.2 ⟨by decide, hb⟩)
    rw [exec_evTxe_ok (haddr.trans hbyte), reported_emitTx]
    rfl
  · have hone := (txeAddr_read (s := s.reportTxe) hd).trans (if_pos hlen)
    rw [exec_evTxe_ok (haddr.trans hone), reported_emitStop]
  · have hmore := (txeAddr_read (s := s.reportTxe) hd).trans (if_neg hlen)
    exact exec_evTxe_ok (haddr.trans hmore)

theorem memRead_unwritten {m : Memory} {i : Nat} (hi : i < maxXfer) (h : m.get i = none) :
    memRead m i = .error .unwrittenBuf := by
  simp only [memRead, if_pos hi, h]

theorem memRead_bufRange {m : Memory} {i : Nat} (hi : ¬ i < maxXfer) : memRead m i = .error .bufRange :=
  if_neg hi

theorem not_lt_maxXfer {i : Nat} (h : i = 255) : ¬ i < maxXfer := by
  simp [h, maxXfer]

/-- Settles O46: what the handler does is decided by the read of the buffer. -/
theorem txeLoadsTheNextByte : Obligations.TxeLoadsTheNextByte := by
  intro s hd
  have haddr := fun hs => handleTxe_addr (s := s.reportTxe) hs
  have hxfer := fun hs => handleTxe_xfer_write (s := s.reportTxe) hs hd
  refine ⟨fun b hs hi hb => ?_, fun hs hi hb hf => ?_, fun hs hb hf => ?_, fun hs hi hf => ?_⟩
  · have hbyte := txeXfer_ok (s := s.reportTxe) (memRead_ok_iff.2 ⟨hi, hb⟩)
    rw [exec_evTxe_ok ((hxfer hs).trans hbyte), reported_emitTx]
    rfl
  · exact exec_evTxe_error ((hxfer hs).trans (txeXfer_error (s := s.reportTxe) (memRead_unwritten hi hb))) hf
  · have hzero := memRead_unwritten (by decide) hb
    exact exec_evTxe_error ((haddr hs).trans (txeAddr_write_error (s := s.reportTxe) hd hzero)) hf
  · have hrange := memRead_bufRange (m := s.engBuf) (not_lt_maxXfer hi)
    exact exec_evTxe_error ((hxfer hs).trans (txeXfer_error (s := s.reportTxe) hrange)) hf

/-- Settles O47: the handler is `txeCompl`, whose one emit is the STOP request. -/
theorem txeFinishesTheWrite : Obligations.TxeFinishesTheWrite := by
  intro s hs hd
  refine ⟨_, oweAfterTxe_ackW, ?_⟩
  rw [exec_evTxe_ok (handleTxe_compl_write (s := s.reportTxe) hs hd), txeCompl, reported_emitStop]

/-! ### RXF -/

/-- Settles O48: what the buffer holds after the byte is stored is `Memory.get_set`. -/
theorem rxfStoresTheByte : Obligations.RxfStoresTheByte := by
  intro s b hd
  refine ⟨fun hs hi => ⟨_, _, fun j => Memory.get_set s.engBuf _ j b, oweAfterRxf_rx, ?_⟩, fun hs hi hf => ?_⟩
  · have hxfer := handleRxf_xfer_read (s := s.reportRxf b) (b := b) hs hd
    intro s'
    split
    next h1 =>
      rw [exec_evRxf_ok (hxfer.trans (rxfXfer_last (s := s.reportRxf b) hi h1)), reported_emitStop]
      rfl
    next h1 => exact exec_evRxf_ok (hxfer.trans (rxfXfer_more (s := s.reportRxf b) hi h1))
  · exact exec_evRxf_error (handleRxf_bufRange (s := s.reportRxf b) hs hd (not_lt_maxXfer hi)) hf

/-- Settles O49: the handler is `rxfCompl`, which emits nothing. -/
theorem rxfFinishesTheRead : Obligations.RxfFinishesTheRead := by
  intro s b hs hd hi
  refine ⟨_, _, fun j => Memory.get_set s.engBuf _ j b, oweAfterRxf_rx, ?_⟩
  have hcompl := handleRxf_compl_read (s := s.reportRxf b) (b := b) hs hd
  exact exec_evRxf_ok (hcompl.trans (rxfCompl_ok (s := s.reportRxf b) hi))

/-! ### NACK, TIMEOUT, STOPDONE, and events that are not expected -/

/-- Settles O50: in a transaction the handler is the abort. -/
theorem nackAbortsTheTransaction : Obligations.NackAbortsTheTransaction := by
  intro s
  refine ⟨_, oweAfterNack_ack, fun hs => ?_, fun hs => exec_evNack_idle hs⟩
  rw [exec_evNack_active hs, reported_abort]

/-- Settles O51: in these states and directions each handler only marks the event. -/
theorem unexpectedEventsOnlySetTheFlag : Obligations.UnexpectedEventsOnlySetTheFlag := by
  intro s b
  refine ⟨fun h => ⟨_, oweAfterTxe_ackR, oweAfterTxe_ackW, ?_⟩, fun h => ⟨_, oweAfterRxf_rx, ?_⟩,
    fun hs => ⟨_, oweAfterNack_ack, exec_evNack_idle hs⟩⟩
  · exact exec_evTxe_ok (handleTxe_unexpected (s := s.reportTxe) h)
  · exact exec_evRxf_ok (handleRxf_unexpected (s := s.reportRxf b) h)

/-- Settles O52: the watchdog's step is the abort, and elsewhere its condition fails (R94). -/
theorem timeoutAbortsTheTransaction : Obligations.TimeoutAbortsTheTransaction := by
  intro s
  refine ⟨fun hw hs => (if_pos ⟨hw, hs⟩).trans ?_, fun h => if_neg fun ⟨hw, hs⟩ => ?_⟩
  · exact congrArg Host.Outcome.next (reported_abort s .evTimeout .none .timeout)
  · rcases h with h | h
    · exact nomatch hw.symm.trans h
    · exact hs h

/-- Settles O53: both are the condition of R99. -/
theorem stopReachesTheBus : Obligations.StopReachesTheBus := by
  intro s
  refine ⟨fun hstop howe => if_pos ⟨hstop, howe⟩, fun h => if_neg fun ⟨hstop, howe⟩ => ?_⟩
  rcases h with h | h
  · exact nomatch hstop.symm.trans h
  · exact h howe

end Sys2Proof.Machine
end

section
/-! PROOFS: a conforming peripheral (40_i2c_engine.md, sections 3 and 4; R93 to R99). What the peripheral owes fixes the state and the
direction of the engine, so a report that is enabled meets a handler that expects it; and SEQ touches the engine only by arming
it, which leaves it active. -/
namespace Sys2Proof.Machine

/-- From `s` to `t` no unexpected event is recorded, and if an idle engine was owed nothing it still is. -/
def KeepsOwe (s t : State) : Prop := t.engUnexp = s.engUnexp ∧ (s.oweOk → t.oweOk)

namespace KeepsOwe

theorem refl (s : State) : KeepsOwe s s := ⟨rfl, id⟩

theorem of_active {s t : State} (hu : t.engUnexp = s.engUnexp) (hs : t.engState ≠ .idle) : KeepsOwe s t :=
  ⟨hu, fun _ hi => absurd hi hs⟩

theorem of_owe_none {s t : State} (hu : t.engUnexp = s.engUnexp) (ho : t.pOwe = .none) : KeepsOwe s t :=
  ⟨hu, fun _ _ => ho⟩

/-- A fault leaves the engine and what it is owed as they are. -/
theorem commit {s : State} {r : Except Fault State} (h : ∀ t, r = .ok t → KeepsOwe s t) : KeepsOwe s (commit s r) := by
  rcases commit_cases s r with ⟨t, ht, he⟩ | ⟨f, -, he⟩ <;> rw [he]
  · exact h t ht
  · exact ⟨rfl, id⟩

theorem dispSend (s : State) (op : OpType) (corr : Byte) (payload : List Byte) :
    KeepsOwe s (s.dispSend op corr payload) := by
  rcases dispSend_cases s op corr payload with ⟨d, h⟩ | ⟨-, rest, h⟩ <;> rw [h] <;> exact ⟨rfl, id⟩

end KeepsOwe

/-! ### What the peripheral owes, and to whom -/

/-- An acknowledge is owed for the address, or for a byte of a write (R25, R79). -/
theorem State.Inv.owed_ack {s : State} (h : s.Inv) (ho : s.pOwe = .ackW ∨ s.pOwe = .ackR) :
    s.engState = .addr ∨ s.engState = .xfer ∧ s.engDir = .w ∨ s.engState = .compl ∧ s.engDir = .w ∧ s.pOwe = .ackW := by
  obtain ⟨-, heng, -⟩ := h
  cases hs : s.engState with
  | idle => rcases (engineOk_idle hs).1 heng with hn | ⟨hn, -⟩ <;> simp [hn] at ho
  | addr => exact .inl rfl
  | xfer =>
    cases hd : s.engDir with
    | w => exact .inr (.inl ⟨rfl, rfl⟩)
    | r =>
      obtain ⟨-, -, -, -, -, -, hn⟩ := (engineOk_xfer_read hs hd).1 heng
      simp [hn] at ho
  | compl =>
    cases hd : s.engDir with
    | w =>
      obtain ⟨-, -, -, -, -, -, -, hw⟩ := (engineOk_compl_write hs hd).1 heng
      exact .inr (.inr ⟨rfl, rfl, hw⟩)
    | r =>
      obtain ⟨-, -, -, -, -, -, hn⟩ := (engineOk_compl_read hs hd).1 heng
      simp [hn] at ho

/-- Bytes are owed to an active read, in COMPL with its STOP pending, unless they are owed to an idle engine (R25, R96). -/
theorem State.Inv.owed_rx {s : State} (h : s.Inv) (ho : s.pOwe = .rx) (hs : s.engState ≠ .idle) :
    s.engDir = .r ∧ (s.engState = .xfer ∨ s.engState = .compl ∧ s.pStopPending = true) := by
  obtain ⟨-, heng, -⟩ := h
  cases he : s.engState with
  | idle => exact absurd he hs
  | addr =>
    obtain ⟨-, -, -, -, -, -, -, hw, hr⟩ := (engineOk_addr he).1 heng
    cases hd : s.engDir with
    | w => exact nomatch ho.symm.trans (hw hd)
    | r => exact nomatch ho.symm.trans (hr hd)
  | xfer =>
    cases hd : s.engDir with
    | w =>
      obtain ⟨-, -, -, -, -, -, -, hw⟩ := (engineOk_xfer_write he hd).1 heng
      exact nomatch ho.symm.trans hw
    | r => exact ⟨rfl, .inl rfl⟩
  | compl =>
    cases hd : s.engDir with
    | w =>
      obtain ⟨-, -, -, -, -, -, -, hw⟩ := (engineOk_compl_write he hd).1 heng
      exact nomatch ho.symm.trans hw
    | r =>
      obtain ⟨-, -, -, -, -, hstop, -⟩ := (engineOk_compl_read he hd).1 heng
      exact ⟨rfl, .inr ⟨rfl, hstop⟩⟩

/-- To an idle engine no bytes are owed. -/
theorem State.oweOk.active_of_rx {s : State} (h : s.oweOk) (ho : s.pOwe = .rx) : s.engState ≠ .idle :=
  fun hs => nomatch ho.symm.trans (h hs)

/-! ### The peripheral's steps -/

/-- TXE in ADDR goes on with the transaction (R86). -/
theorem txeAddr_active {s t : State} (h : txeAddr s = .ok t) : t.engUnexp = s.engUnexp ∧ t.engState ≠ .idle := by
  unfold txeAddr at h
  split at h
  · split at h <;> cases h
    refine ⟨rfl, ?_⟩
    dsimp only
    split <;> nofun
  · split at h <;> cases h <;> exact ⟨rfl, nofun⟩

/-- TXE in XFER goes on with the transaction (R87). -/
theorem txeXfer_active {s t : State} (h : txeXfer s = .ok t) : t.engUnexp = s.engUnexp ∧ t.engState ≠ .idle := by
  unfold txeXfer at h
  split at h <;> cases h
  refine ⟨rfl, ?_⟩
  dsimp only
  split <;> nofun

/-- RXF in XFER goes on with the transaction (R90). -/
theorem rxfXfer_active {s t : State} {b : Byte} (hs : s.engState = .xfer) (h : rxfXfer b s = .ok t) :
    t.engUnexp = s.engUnexp ∧ t.engState ≠ .idle := by
  unfold rxfXfer at h
  split at h
  · injection h with h
    subst h
    split
    · exact ⟨rfl, nofun⟩
    · exact ⟨rfl, fun hi => nomatch hs.symm.trans hi⟩
  · cases h

/-- An enabled TXE finds an engine that expects it; where it ends a write, nothing more is owed (R88, R96). -/
theorem execEvTxe_keepsOwe {s t : State} (h : s.Inv) (ho : s.pOwe = .ackW ∨ s.pOwe = .ackR)
    (ht : exec .evTxe s = .next t) : KeepsOwe s t := by
  cases ht
  refine .commit fun u hu => ?_
  rcases h.owed_ack ho with hs | ⟨hs, hd⟩ | ⟨hs, hd, howe⟩
  · obtain ⟨hx, hact⟩ := txeAddr_active ((handleTxe_addr (s := s.reportTxe) hs).symm.trans hu)
    exact .of_active hx hact
  · obtain ⟨hx, hact⟩ := txeXfer_active ((handleTxe_xfer_write (s := s.reportTxe) hs hd).symm.trans hu)
    exact .of_active hx hact
  · cases (handleTxe_compl_write (s := s.reportTxe) hs hd).symm.trans hu
    exact .of_owe_none rfl (oweAfterTxe_ackW howe)

/-- An enabled RXF finds an engine that expects it; where it ends a read, nothing more is owed (R91, R98). -/
theorem execEvRxf_keepsOwe {s t : State} {b : Byte} (h : s.Inv) (howe : s.oweOk) (ho : s.pOwe = .rx)
    (ht : exec (.evRxf b) s = .next t) : KeepsOwe s t := by
  cases ht
  refine .commit fun u hu => ?_
  obtain ⟨hd, hs | ⟨hs, hstop⟩⟩ := h.owed_rx ho (howe.active_of_rx ho)
  · obtain ⟨hx, hact⟩ := rxfXfer_active (s := s.reportRxf b) hs ((handleRxf_xfer_read (s := s.reportRxf b) hs hd).symm.trans hu)
    exact .of_active hx hact
  · have hi := h.engIdx_lt (.inr hs) hd
    cases ((handleRxf_compl_read (s := s.reportRxf b) hs hd).trans (rxfCompl_ok hi)).symm.trans hu
    exact .of_owe_none rfl ((oweAfterRxf_rx ho).trans (if_pos hstop))

/-- An enabled NACK finds a transaction to abort, and nothing more is owed (R92, R97). -/
theorem execEvNack_keepsOwe {s t : State} (h : s.Inv) (ho : s.pOwe = .ackW ∨ s.pOwe = .ackR)
    (ht : exec .evNack s = .next t) : KeepsOwe s t := by
  have hact : s.engState ≠ .idle := by
    rcases h.owed_ack ho with hs | ⟨hs, -⟩ | ⟨hs, -⟩ <;> simp [hs]
  rw [exec_evNack_active hact, reported_abort] at ht
  cases ht
  exact .of_owe_none rfl (oweAfterNack_ack ho)

theorem execPeStopdone_keepsOwe {s t : State} (h : execPeStopdone s = .next t) : KeepsOwe s t := by
  unfold execPeStopdone at h
  split at h <;> cases h <;> exact ⟨rfl, id⟩

/-- A step of PERIPH that is enabled is expected (R95 to R99). -/
theorem exec_periph_keepsOwe {e : PeriphStep} {s t : State} (h : s.Inv) (howe : s.oweOk)
    (he : periphEnabled e s = true) (ht : exec e.toInstr s = .next t) : KeepsOwe s t := by
  cases e with
  | txe => exact execEvTxe_keepsOwe h ((periphEnabled_txe s).1 he) ht
  | nack => exact execEvNack_keepsOwe h ((periphEnabled_nack s).1 he) ht
  | rxf b => exact execEvRxf_keepsOwe h howe ((periphEnabled_rxf b s).1 he) ht
  | stopdone => exact execPeStopdone_keepsOwe ht

/-! ### SEQ's operations -/

theorem arm_keepsOwe {s t : State} {c : Call} (h : s.arm c = .ok t) : KeepsOwe s t := by
  unfold State.arm at h
  split at h <;> cases h
  exact .of_active rfl nofun

theorem engCall_waiting_keepsOwe {p : SeqPhase} {c : Call} {s t : State} (h : engCall p c s = .ok (.waiting t)) :
    KeepsOwe s t := by
  obtain ⟨-, ⟨-, h⟩ | ⟨-, -, ⟨-, h⟩ | ⟨-, u, hu, h⟩⟩⟩ := engCall_cases h <;> cases h
  · exact KeepsOwe.refl s
  · exact (arm_keepsOwe hu :)

theorem finishWrite_keepsOwe (r : CallResult) (s : State) : KeepsOwe s (finishWrite r s) :=
  (KeepsOwe.dispSend s 0 _ _ :)

theorem finishRead_keepsOwe (r : CallResult) (s : State) : KeepsOwe s (finishRead r s) :=
  (KeepsOwe.dispSend s 0 _ _ :)

theorem startWrite_keepsOwe {s t : State} {q : Byte} {a : Addr7} {data : List Byte} (h : startWrite q a data s = .ok t) :
    KeepsOwe s t := by
  unfold startWrite at h
  split at h <;> cases h
  next r u hu =>
    rw [engCall_returned_eq hu]
    exact finishWrite_keepsOwe r { s with seqPhase := .wWait, dispCtx := _ }
  next hu => exact (engCall_waiting_keepsOwe hu :)

theorem finishSelect_keepsOwe {s t : State} {w : CallResult} (h : finishSelect w s = .ok t) : KeepsOwe s t := by
  unfold finishSelect at h
  split at h <;> cases h
  next r u hu =>
    rw [engCall_returned_eq hu]
    exact finishRead_keepsOwe r { s with seqPhase := .rdWait, dispCtx := _ }
  next hu => exact (engCall_waiting_keepsOwe hu :)

theorem startRead_keepsOwe {s t : State} {q : Byte} {a : Addr7} {n : BitVec 5} {sel : List Byte}
    (h : startRead q a n sel s = .ok t) : KeepsOwe s t := by
  unfold startRead at h
  split at h
  next w u hu =>
    rw [engCall_returned_eq hu] at h
    exact (finishSelect_keepsOwe h :)
  next hu =>
    cases h
    exact (engCall_waiting_keepsOwe hu :)
  next => cases h

theorem runCommand_keepsOwe {c : FrameCmd} {s t : State} (h : runCommand c s = .ok t) : KeepsOwe s t := by
  cases c with
  | i2cEmpty | gpioEmpty | i2cReadShort => cases h; exact .refl s
  | rsvdOp2 | rsvdOp3 | rsvdOp4 | rsvdOp5 | rsvdOp6 | rsvdOp7 => cases h; exact .refl s
  | i2cRead => exact startRead_keepsOwe h
  | i2cWrite => exact startWrite_keepsOwe h
  | gpioRead | gpioBadgroup => cases h; exact .dispSend ..

theorem deliver_keepsOwe {b : List Byte} {s t : State} (h : deliver b s = .ok t) : KeepsOwe s t := by
  unfold deliver at h
  split at h
  · exact runCommand_keepsOwe h
  · cases h; exact .refl s

theorem poll_keepsOwe (s : State) : KeepsOwe s s.poll := by
  unfold State.poll
  split
  · exact (KeepsOwe.dispSend { s with gpioLast := sampledPins s } .. :)
  · exact .refl s

theorem whenReady_keepsOwe {i : Instr} {act : State → Except Fault State} {s t : State}
    (hact : ∀ u, act s = .ok u → KeepsOwe s u) (h : whenReady i act s = .next t) : KeepsOwe s t := by
  rcases whenReady_cases h with ⟨-, -, rfl⟩ | rfl
  · exact .commit hact
  · exact KeepsOwe.refl s

theorem directCall_keepsOwe (i : Instr) (c : Call) (s : State) : KeepsOwe s (directCall i c s) := by
  unfold directCall
  split
  · exact KeepsOwe.refl s
  · split
    · exact KeepsOwe.refl s
    · split
      next r u hu =>
        rw [engCall_returned_eq hu]
        exact KeepsOwe.refl s
      next hu => exact engCall_waiting_keepsOwe hu
      next => exact KeepsOwe.refl s

theorem leaveWait_keepsOwe {k : CallResult → State → Except Fault State} {s : State}
    (hk : ∀ r t, k r s = .ok t → KeepsOwe s t) : KeepsOwe s (leaveWait k s) := by
  unfold leaveWait
  split
  · refine .commit fun t ht => ?_
    split at ht
    · exact hk _ t ht
    · cases ht
  · exact .refl s

theorem resumeSeq_keepsOwe (s : State) : KeepsOwe s (resumeSeq s) := by
  unfold resumeSeq
  split
  next => exact .refl s
  next =>
    split
    · exact .refl s
    · refine .commit fun t ht => ?_
      split at ht <;> cases ht
      next hu => exact (arm_keepsOwe hu :)
  next => exact leaveWait_keepsOwe fun r t ht => by cases ht; exact finishWrite_keepsOwe r s
  next => exact leaveWait_keepsOwe fun r t ht => finishSelect_keepsOwe ht
  next => exact leaveWait_keepsOwe fun r t ht => by cases ht; exact finishRead_keepsOwe r s
  next => exact leaveWait_keepsOwe fun r t ht => by cases ht; exact KeepsOwe.refl s

/-! ### Instructions and steps -/

/-- An abort by the watchdog leaves nothing owed (R94). -/
theorem execEvTimeout_keepsOwe {s t : State} (h : execEvTimeout s = .next t) : KeepsOwe s t := by
  unfold execEvTimeout at h
  split at h
  · rw [reported_abort] at h
    cases h
    exact .of_owe_none rfl rfl
  · cases h
    exact .refl s

/-- The codec's operations only hand back a value (R103). -/
theorem exec_codecEncode_giveBack {op : OpType} {q c : Byte} {p : List Byte} {s t : State}
    (h : exec (.codecEncode op q c p) s = .next t) : ∃ r, t = s.giveBack r := by
  simp only [exec, execCodecEncode] at h
  split at h <;> cases h <;> exact ⟨_, rfl⟩

theorem exec_codecDecode_giveBack {b : List Byte} {s t : State} (h : exec (.codecDecode b) s = .next t) :
    ∃ r, t = s.giveBack r := by
  simp only [exec, execCodecDecode] at h
  split at h <;> cases h <;> exact ⟨_, rfl⟩

/-- An instruction that is no report of an event leaves the peripheral with nothing to report to an idle engine. -/
theorem exec_keepsOwe {i : Instr} {s t : State} (hi : ¬ isReport i) (h : exec i s = .next t) : KeepsOwe s t := by
  cases i using Instr.command_cases with
  | command c =>
    rw [exec_toInstr] at h
    exact whenReady_keepsOwe (fun u hu => runCommand_keepsOwe hu) h
  | engWrite a data => cases h; exact directCall_keepsOwe ..
  | engRead a n => cases h; exact directCall_keepsOwe ..
  | evTxe => exact absurd (.inl rfl) hi
  | evRxf b => exact absurd (.inr (.inr ⟨b, rfl⟩)) hi
  | evNack => exact absurd (.inr (.inl rfl)) hi
  | evTimeout => exact execEvTimeout_keepsOwe h
  | peStopdone => exact execPeStopdone_keepsOwe h
  | linkOpen ch => cases h; exact KeepsOwe.refl s
  | linkClose =>
    simp only [exec, execLinkClose] at h
    split at h <;> cases h <;> exact KeepsOwe.refl s
  | frameDeliver ch b => exact whenReady_keepsOwe (fun u hu => deliver_keepsOwe hu) h
  | gpioPoll =>
    exact whenReady_keepsOwe (act := fun u => .ok u.poll) (fun u hu => by cases hu; exact poll_keepsOwe s) h
  | codecEncode op q c p =>
    obtain ⟨r, rfl⟩ := exec_codecEncode_giveBack h
    exact KeepsOwe.refl s
  | codecDecode b =>
    obtain ⟨r, rfl⟩ := exec_codecDecode_giveBack h
    exact KeepsOwe.refl s
  | gpioChange v =>
    exact whenReady_keepsOwe (act := fun u => .ok (u.gpioChange v)) (fun u hu => by cases hu; exact .dispSend ..) h
  | dispSend op c p =>
    exact whenReady_keepsOwe (act := fun u => .ok (u.dispSend op c p)) (fun u hu => by cases hu; exact .dispSend ..) h

theorem not_isReport_of_isSeqOperation {i : Instr} (h : isSeqOperation i = true) : ¬ isReport i := by
  rintro (rfl | rfl | ⟨b, rfl⟩) <;> cases h

/-- What is presented is run as it decodes, or delivered as a frame (R75, R109; log 7). -/
theorem fetchPort_run {p : Params} {e : Encoded} {i : Instr} (h : fetchPort p e = .run i) :
    decode p e = .ok i ∨ ∃ b, i = .frameDeliver 0 b := by
  cases hd : decode p e with
  | ok j =>
    simp only [fetchPort, hd] at h
    cases h
    exact .inl rfl
  | error f =>
    cases e with
    | ifc w => simp [fetchPort, hd] at h
    | frame b =>
      simp only [fetchPort, hd] at h
      cases h
      exact .inr ⟨b, rfl⟩

/-- With a conforming peripheral, what is fetched to run is an enabled step of PERIPH or no report. -/
theorem State.conforming.fetch_run {s : State} {i : Instr} (h : s.conforming) (hi : s.fetch = .run i) :
    (∃ e, periphEnabled e s = true ∧ i = e.toInstr) ∨ ¬ isReport i := by
  unfold State.fetch at hi
  split at hi <;> try cases hi
  next e _ _ =>
    unfold fetchPeriph at hi
    split at hi <;> cases hi
    next he => exact .inl ⟨e, he, rfl⟩
  next e rest hin =>
    obtain hd | ⟨b, rfl⟩ := fetchPort_run hi
    · exact .inr (h e rest i hin hd)
    · exact .inr (not_isReport_of_isSeqOperation rfl)

/-- The instruction a step performs is an enabled step of PERIPH or no report, for SEQ keeps no report. -/
theorem State.conforming.performs {s : State} {i : Instr} (h : s.conforming) (hheld : s.heldOk)
    (hi : s.performs = some i) : (∃ e, periphEnabled e s = true ∧ i = e.toInstr) ∨ ¬ isReport i := by
  unfold State.performs at hi
  split at hi
  next j hj => cases hi; exact h.fetch_run hj
  next =>
    split at hi
    · exact .inr (not_isReport_of_isSeqOperation (hheld i (List.mem_of_head? hi)))
    · cases hi
  next => cases hi
  next => cases hi

/-- Performing such an instruction is expected, whatever is kept for SEQ. -/
theorem exec_conforming_keepsOwe {i : Instr} {s t : State} (h : s.Inv) (howe : s.oweOk)
    (hi : (∃ e, periphEnabled e s = true ∧ i = e.toInstr) ∨ ¬ isReport i) (ht : exec i s = .next t) : KeepsOwe s t := by
  obtain ⟨e, he, rfl⟩ | hi := hi
  · exact exec_periph_keepsOwe h howe he ht
  · exact exec_keepsOwe hi ht

/-- Settles O6: every conforming step keeps what is owed. -/
theorem conformingPeripheralIsNeverUnexpected : Obligations.ConformingPeripheralIsNeverUnexpected := by
  intro s t h howe hconf ht
  obtain ⟨-, -, -, -, hheld⟩ := id h
  have hkeeps : KeepsOwe s t := by
    obtain ⟨-, ⟨i, hi, hexec⟩ | ⟨i, rest, hi, -, -, hkept⟩ | ⟨-, rfl | ⟨v, rfl⟩ | rfl⟩⟩ := step_cases ht
    · exact (exec_conforming_keepsOwe (s := s.advance) h howe (hconf.performs hheld hi) hexec :)
    · obtain ⟨u, hu, rfl⟩ := runKept_eq_next hkept
      exact (exec_conforming_keepsOwe (s := { s.advance with held := [] }) h.held_nil howe (hconf.performs hheld hi) hu :)
    · exact (resumeSeq_keepsOwe s.advance :)
    · exact KeepsOwe.refl s
    · exact KeepsOwe.refl s
  obtain ⟨hunexp, hnone⟩ := hkeeps
  exact ⟨hunexp, hnone howe⟩

end Sys2Proof.Machine
end

section
/-! PROOFS: STOP is requested once in a transaction (R23, R92). A transaction whose STOP has been requested is a read in COMPL, and SEQ
waits for it: SEQ's operations are kept or refused, and the events there request no STOP. -/
namespace Sys2Proof.Machine

/-- What the trace holds at `t` beyond `s` requests no STOP. -/
def RequestsNoStop (s t : State) : Prop := ∃ items, t.trace = s.trace ++ items ∧ TraceItem.stopReq ∉ items

theorem RequestsNoStop.of_trace_eq {s t : State} (h : t.trace = s.trace) : RequestsNoStop s t :=
  ⟨[], by rw [h, List.append_nil], nofun⟩

theorem RequestsNoStop.of_trace_item {s t : State} {x : TraceItem} (h : t.trace = s.trace ++ [x]) (hx : x ≠ .stopReq) :
    RequestsNoStop s t :=
  ⟨[x], h, by simpa using hx.symm⟩

/-- STOP has been requested in a transaction only in COMPL on a read, for elsewhere it is requested as the transaction ends. -/
theorem State.Inv.stopreq_compl_read {s : State} (h : s.Inv) (hs : s.engState ≠ .idle) (hreq : s.engStopreq = true) :
    s.engState = .compl ∧ s.engDir = .r ∧ s.engDone = false := by
  obtain ⟨-, heng, -⟩ := h
  cases he : s.engState with
  | idle => exact absurd he hs
  | addr =>
    obtain ⟨-, -, -, hno, -⟩ := (engineOk_addr he).1 heng
    exact nomatch hreq.symm.trans hno
  | xfer =>
    cases hd : s.engDir with
    | w =>
      obtain ⟨-, -, -, hno, -⟩ := (engineOk_xfer_write he hd).1 heng
      exact nomatch hreq.symm.trans hno
    | r =>
      obtain ⟨-, -, hno, -⟩ := (engineOk_xfer_read he hd).1 heng
      exact nomatch hreq.symm.trans hno
  | compl =>
    cases hd : s.engDir with
    | w =>
      obtain ⟨-, -, -, hno, -⟩ := (engineOk_compl_write he hd).1 heng
      exact nomatch hreq.symm.trans hno
    | r =>
      obtain ⟨-, -, -, hdone, -⟩ := (engineOk_compl_read he hd).1 heng
      exact ⟨rfl, rfl, hdone⟩

/-- While a transaction is active SEQ is in none of the phases in which the engine is idle. -/
theorem State.Inv.seqPhase_of_active {s : State} (h : s.Inv) (hs : s.engState ≠ .idle) :
    s.seqPhase ≠ .ready ∧ s.seqPhase ≠ .stopHold := by
  refine ⟨fun hp => hs (h.engState_idle hp), fun hp => hs ?_⟩
  have hseq := h.seqOk
  simp only [State.seqOk, hp] at hseq
  obtain ⟨hidle, -⟩ := hseq
  exact hidle

theorem whenReady_held_noStop {i : Instr} {act : State → Except Fault State} {s t : State} (hp : s.seqPhase ≠ .ready)
    (h : whenReady i act s = .next t) : RequestsNoStop s t := by
  rw [whenReady_held (.inl hp)] at h
  cases h
  exact .of_trace_eq rfl

/-- No instruction requests STOP again in a transaction whose STOP has been requested (R92). -/
theorem exec_noStop {i : Instr} {s t : State} (hinv : s.Inv) (hs : s.engState ≠ .idle) (hreq : s.engStopreq = true)
    (h : exec i s = .next t) : RequestsNoStop s t := by
  obtain ⟨hp, -⟩ := hinv.seqPhase_of_active hs
  obtain ⟨hcompl, hd, -⟩ := hinv.stopreq_compl_read hs hreq
  cases i using Instr.command_cases with
  | command c =>
    rw [exec_toInstr] at h
    exact whenReady_held_noStop hp h
  | engWrite a data =>
    cases h
    rw [directCall_busy hs]
    exact .of_trace_eq rfl
  | engRead a n =>
    cases h
    rw [directCall_busy hs]
    exact .of_trace_eq rfl
  | evTxe =>
    rw [exec_evTxe_ok (handleTxe_unexpected (s := s.reportTxe) (.inr ⟨hd, by simp [hcompl]⟩))] at h
    cases h
    exact .of_trace_item (x := .evTxe) rfl nofun
  | evRxf b =>
    have hi := hinv.engIdx_lt (.inr hcompl) hd
    rw [exec_evRxf_ok ((handleRxf_compl_read (s := s.reportRxf b) hcompl hd).trans (rxfCompl_ok hi))] at h
    cases h
    exact .of_trace_item (x := .evRxf b) rfl nofun
  | evNack =>
    rw [exec_evNack_active hs, reported_abort, if_pos hreq, if_pos hreq] at h
    cases h
    exact .of_trace_item (x := .evNack) rfl nofun
  | evTimeout =>
    simp only [exec, execEvTimeout, reported_abort, if_pos hreq] at h
    split at h <;> cases h
    · exact .of_trace_item (x := .evTimeout) rfl nofun
    · exact .of_trace_eq rfl
  | peStopdone =>
    simp only [exec, execPeStopdone] at h
    split at h <;> cases h
    · exact .of_trace_item (x := .stopDone) rfl nofun
    · exact .of_trace_eq rfl
  | linkOpen ch => cases h; exact .of_trace_eq rfl
  | linkClose =>
    simp only [exec, execLinkClose] at h
    split at h <;> cases h <;> exact .of_trace_eq rfl
  | frameDeliver ch b => exact whenReady_held_noStop hp h
  | gpioPoll => exact whenReady_held_noStop (act := fun u => .ok u.poll) hp h
  | codecEncode op q c p =>
    obtain ⟨r, rfl⟩ := exec_codecEncode_giveBack h
    exact .of_trace_eq rfl
  | codecDecode b =>
    obtain ⟨r, rfl⟩ := exec_codecDecode_giveBack h
    exact .of_trace_eq rfl
  | gpioChange v => exact whenReady_held_noStop (act := fun u => .ok (u.gpioChange v)) hp h
  | dispSend op c p => exact whenReady_held_noStop (act := fun u => .ok (u.dispSend op c p)) hp h

/-- Settles O22: SEQ has nothing to run or to go on with until the transaction ends, so the step is an instruction presented. -/
theorem stopIsRequestedOnce : Obligations.StopIsRequestedOnce := by
  intro s t hinv hs hreq h
  obtain ⟨hready, hhold⟩ := hinv.seqPhase_of_active hs
  obtain ⟨-, -, hdone⟩ := hinv.stopreq_compl_read hs hreq
  obtain ⟨-, ⟨i, -, hexec⟩ | ⟨i, rest, -, hp, -⟩ | ⟨-, rfl | ⟨v, rfl⟩ | rfl⟩⟩ := step_cases h
  · exact (exec_noStop (s := s.advance) hinv hs hreq hexec :)
  · exact absurd hp hready
  · rw [resumeSeq_waiting (s := s.advance) hdone fun hp => absurd hp hhold]
    exact RequestsNoStop.of_trace_eq rfl
  · exact RequestsNoStop.of_trace_eq rfl
  · exact RequestsNoStop.of_trace_eq rfl

end Sys2Proof.Machine
end

section
/-! PROOFS: whole transactions (40_i2c_engine.md). What holds after each acknowledge of a write, and after each byte of a read, is one
structure; an event takes it from one count to the next, and the last event ends the transaction with the call's result. -/
namespace Sys2Proof.Machine

/-! ### Running instructions one after another -/

theorem execAll_cons {i : Instr} {is : List Instr} {s t : State} (h : exec i s = .next t) :
    execAll (i :: is) s = execAll is t := by
  simp only [execAll, h]

theorem execAll_append {is js : List Instr} {s t : State} (h : execAll is s = .next t) :
    execAll (is ++ js) s = execAll js t := by
  induction is generalizing s with
  | nil => cases h; rfl
  | cons i is ih =>
    simp only [execAll] at h
    split at h
    next u hu => exact (execAll_cons hu).trans (ih h)
    next => cases h
    next => cases h

/-! ### The end of a direct call -/

/-- When the transaction of a direct call has ended, SEQ hands back its result and is READY (R84, R131). -/
theorem seqStep_callWait {t : State} {r : CallResult} (hp : t.seqPhase = .callWait) (hd : t.engDone = true)
    (hr : engResult t = .ok r) :
    ∃ u, seqStep t = .next u ∧ u.returns = t.returns ++ [.call r] ∧ u.seqPhase = .ready :=
  ⟨finishCall r t, by rw [seqStep_busy (by simp [hp]), resumeSeq_callWait hp hd hr], rfl, rfl⟩

/-! ### A write -/

/-- The direct write of `data` to `a` begun in `s` has, in `t`, had `k` bytes loaded, each after an acknowledge (R82, R86, R87). -/
structure WriteLoaded (s : State) (a : Addr7) (data : List Byte) (k : Nat) (t : State) : Prop where
  trace : t.trace = s.trace ++ .start (a.setWidth 8 <<< 1) :: (data.take k).flatMap (fun d => [TraceItem.evTxe, .tx d])
  returns : t.returns = s.returns
  seqPhase : t.seqPhase = .callWait
  engState : t.engState = if k = 0 then .addr else if k = data.length then .compl else .xfer
  engDir : t.engDir = .w
  engLen : t.engLen.toNat = data.length
  engIdx : t.engIdx.toNat = k
  engRem : t.engRem.toNat = if k = 0 then data.length else data.length - k + 1
  engBuf : ∀ j < data.length, t.engBuf.get j = data[j]?
  engErr : t.engErr = .none
  engStopreq : t.engStopreq = false
  pOwe : t.pOwe = .ackW

namespace WriteLoaded

variable {s t : State} {a : Addr7} {data : List Byte} {k : Nat}

/-- ENG_WRITE arms the engine with no byte loaded yet (R82). -/
theorem exec_engWrite (hs : s.engState = .idle) (hp : s.seqPhase = .ready) (hh : s.held = [])
    (hstop : s.pStopPending = false) (h0 : 0 < data.length) (hm : data.length ≤ 255) :
    ∃ t, exec (.engWrite a data) s = .next t ∧ WriteLoaded s a data 0 t := by
  obtain ⟨t, ht, buf, hbuf, rfl⟩ := engWriteArmsTheEngine a data s hs hp hh hstop h0 hm
  have hlen := toNat_ofNat_of_le_maxXfer (n := data.length) hm
  exact ⟨_, ht, rfl, rfl, rfl, rfl, rfl, hlen, rfl, hlen, fun j hj => (hbuf j).trans (if_pos hj), rfl, rfl, rfl⟩

theorem active (h : WriteLoaded s a data k t) : t.engState ≠ .idle := by
  rw [h.engState]
  split
  · nofun
  · split <;> nofun

/-- After byte `k + 1` the engine is in COMPL if that was the last, and else in XFER (R86, R87). -/
theorem engState_loaded {c : Prop} [Decidable c] {k m : Nat} (hc : c ↔ k + 1 = m) :
    (if c then EngState.compl else .xfer) = if k + 1 = 0 then .addr else if k + 1 = m then .compl else .xfer := by
  rw [if_neg (Nat.succ_ne_zero k)]
  exact if_congr hc rfl rfl

theorem trace_loaded {b : Byte} (h : WriteLoaded s a data k t) (hb : data[k]? = some b) :
    t.trace ++ [.evTxe, .tx b] =
      s.trace ++ .start (a.setWidth 8 <<< 1) :: (data.take (k + 1)).flatMap (fun d => [TraceItem.evTxe, .tx d]) := by
  simp [h.trace, List.take_add_one, hb]

/-- The acknowledge of the address loads byte 0 (R86). -/
theorem exec_evTxe_addr (h : WriteLoaded s a data 0 t) (h0 : 0 < data.length) :
    ∃ u, exec .evTxe t = .next u ∧ WriteLoaded s a data 1 u := by
  have hb := List.getElem?_eq_getElem h0
  have hone : t.engLen = 1 ↔ 0 + 1 = data.length := by
    rw [← h.engLen]
    bv_omega
  obtain ⟨hload, -⟩ := txeEndsTheAddressPhase t h.engState
  refine ⟨_, hload _ h.engDir ((h.engBuf 0 h0).trans hb), h.trace_loaded hb, h.returns, h.seqPhase,
    engState_loaded hone, h.engDir, h.engLen, rfl, ?_, h.engBuf, h.engErr, h.engStopreq, rfl⟩
  rw [h.engRem, if_pos rfl, if_neg one_ne_zero]
  omega

/-- The acknowledge of a byte loads the next (R87). -/
theorem exec_evTxe_xfer (h : WriteLoaded s a data (k + 1) t) (hk : k + 1 < data.length) :
    ∃ u, exec .evTxe t = .next u ∧ WriteLoaded s a data (k + 2) u := by
  have hb := List.getElem?_eq_getElem hk
  have hs : t.engState = .xfer := by rw [h.engState, if_neg (Nat.succ_ne_zero k), if_neg hk.ne]
  have hlt : t.engIdx.toNat < t.engLen.toNat := by rwa [h.engIdx, h.engLen]
  have hidx : (t.engIdx + 1).toNat = k + 1 + 1 := by rw [toNat_succ_of_lt hlt, h.engIdx]
  have hlast : t.engIdx + 1 = t.engLen ↔ k + 1 + 1 = data.length := by rw [← BitVec.toNat_inj, hidx, h.engLen]
  have hrem := h.engRem
  rw [if_neg (Nat.succ_ne_zero k)] at hrem
  obtain ⟨hload, -⟩ := txeLoadsTheNextByte t h.engDir
  refine ⟨_, hload _ hs (by have := t.engLen.isLt; omega) (by rw [h.engIdx]; exact (h.engBuf _ hk).trans hb),
    h.trace_loaded hb, h.returns, h.seqPhase, engState_loaded hlast, h.engDir, h.engLen, hidx, ?_, h.engBuf,
    h.engErr, h.engStopreq, rfl⟩
  rw [if_neg (Nat.succ_ne_zero _)]
  refine (toNat_pred_of_pos (by omega)).trans ?_
  omega

/-- While a byte is still to be loaded, an acknowledge loads it (R86, R87). -/
theorem exec_evTxe (h : WriteLoaded s a data k t) (hk : k < data.length) :
    ∃ u, exec .evTxe t = .next u ∧ WriteLoaded s a data (k + 1) u := by
  cases k with
  | zero => exact h.exec_evTxe_addr hk
  | succ k => exact h.exec_evTxe_xfer hk

theorem execAll_evTxe (h : WriteLoaded s a data k t) {m : Nat} (hm : k + m ≤ data.length) :
    ∃ u, execAll (List.replicate m .evTxe) t = .next u ∧ WriteLoaded s a data (k + m) u := by
  induction m generalizing k t with
  | zero => exact ⟨t, rfl, h⟩
  | succ m ih =>
    obtain ⟨u, hu, hload⟩ := h.exec_evTxe (by omega)
    obtain ⟨v, hv, hall⟩ := ih hload (by omega)
    exact ⟨v, (execAll_cons hu).trans hv, by rwa [show k + (m + 1) = k + 1 + m by omega]⟩

/-- A write of which `k` bytes have been loaded is reached by ENG_WRITE and `k` acknowledges. -/
theorem execAll_engWrite (hs : s.engState = .idle) (hp : s.seqPhase = .ready) (hh : s.held = [])
    (hstop : s.pStopPending = false) (h0 : 0 < data.length) (hm : data.length ≤ 255) (hk : k ≤ data.length) :
    ∃ t, execAll (.engWrite a data :: List.replicate k .evTxe) s = .next t ∧ WriteLoaded s a data k t := by
  obtain ⟨t, ht, harm⟩ := exec_engWrite (a := a) hs hp hh hstop h0 hm
  obtain ⟨u, hu, hload⟩ := harm.execAll_evTxe (m := k) (by omega)
  exact ⟨u, (execAll_cons ht).trans hu, by rwa [Nat.zero_add] at hload⟩

/-- The acknowledge of the last byte finishes the write (R88). -/
theorem exec_evTxe_last (h : WriteLoaded s a data data.length t) (h0 : 0 < data.length) :
    ∃ u, exec .evTxe t = .next u ∧ u.trace = t.trace ++ [.evTxe, .stopReq] ∧ u.engState = .idle ∧ u.engRem = 0 ∧
      u.pStopPending = true ∧ u.pOwe = .none ∧ u.engDone = true ∧ engResult u = .ok .okWrite ∧
      u.seqPhase = .callWait ∧ u.returns = s.returns := by
  have hs : t.engState = .compl := by rw [h.engState, if_neg h0.ne', if_pos rfl]
  obtain ⟨o, ho, hlast⟩ := txeFinishesTheWrite t hs h.engDir
  exact ⟨_, hlast, rfl, rfl, rfl, rfl, ho h.pOwe, rfl, engResult_write h.engErr h.engDir, h.seqPhase, h.returns⟩

/-- A byte that is not acknowledged aborts the write (R92). -/
theorem exec_evNack (h : WriteLoaded s a data k t) :
    ∃ u, exec .evNack t = .next u ∧ u.trace = t.trace ++ [.evNack, .stopReq] ∧ u.engState = .idle ∧
      u.engErr = .noack ∧ u.engRem = t.engRem ∧ u.pOwe = .none ∧ u.engDone = true ∧
      engResult u = .ok (.err .noAck) ∧ u.seqPhase = .callWait ∧ u.returns = s.returns := by
  obtain ⟨o, ho, hnack, -⟩ := nackAbortsTheTransaction t
  refine ⟨_, hnack h.active, ?_, rfl, rfl, rfl, ho (.inl h.pOwe), rfl, engResult_err rfl, h.seqPhase, h.returns⟩
  simp only [h.engStopreq]
  rfl

end WriteLoaded

/-- Settles O23: after all bytes have been loaded, one more acknowledge finishes the write. -/
theorem writeTransactionSucceeds : Obligations.WriteTransactionSucceeds := by
  intro a data s hs hp hh hstop h0 hm
  obtain ⟨t, ht, h⟩ := WriteLoaded.execAll_engWrite (a := a) hs hp hh hstop h0 hm le_rfl
  obtain ⟨u, hu, htrace, hidle, hrem, hpend, howe, hdone, hres, hphase, hreturns⟩ := h.exec_evTxe_last h0
  obtain ⟨v, hv, hret, hready⟩ := seqStep_callWait hphase hdone hres
  refine ⟨u, v, ?_, ?_, hidle, hrem, hpend, howe, hv, hreturns ▸ hret, hready⟩
  · rw [List.replicate_succ', ← List.cons_append, execAll_append ht, execAll_cons hu]
    rfl
  · simp [htrace, h.trace]

/-- Settles O24: NACK aborts the write wherever it stands. -/
theorem writeTransactionNacked : Obligations.WriteTransactionNacked := by
  intro a data k s hs hp hh hstop h0 hm hk
  obtain ⟨t, ht, h⟩ := WriteLoaded.execAll_engWrite (a := a) hs hp hh hstop h0 hm hk
  obtain ⟨u, hu, htrace, hidle, herr, hrem, howe, hdone, hres, hphase, hreturns⟩ := h.exec_evNack
  obtain ⟨v, hv, hret, hready⟩ := seqStep_callWait hphase hdone hres
  refine ⟨u, v, ?_, ?_, hidle, herr, hrem ▸ h.engRem, howe, hv, hreturns ▸ hret, hready⟩
  · rw [← List.cons_append, execAll_append ht, execAll_cons hu]
    rfl
  · simp [htrace, h.trace]

/-! ### A read -/

/-- The direct read of `n` bytes from `a` begun in `s` has, in `t`, received the bytes `got`, and at least one is still to come; STOP
has been requested if it is the last (R83, R86, R90). -/
structure ReadStored (s : State) (a : Addr7) (n : Byte) (got : List Byte) (t : State) : Prop where
  trace : t.trace = s.trace ++ .start ((a.setWidth 8 <<< 1) ||| 1) :: .evTxe ::
    (got.map .evRxf ++ if got.length + 1 = n.toNat then [.stopReq] else [])
  returns : t.returns = s.returns
  seqPhase : t.seqPhase = .callWait
  engState : t.engState = if got.length + 1 = n.toNat then .compl else .xfer
  engDir : t.engDir = .r
  engLen : t.engLen = n
  engIdx : t.engIdx.toNat = got.length
  engRem : t.engRem.toNat + got.length = n.toNat
  engBuf : ∀ j < got.length, t.engBuf.get j = got[j]?
  engErr : t.engErr = .none
  pStopPending : t.pStopPending = decide (got.length + 1 = n.toNat)
  pOwe : t.pOwe = .rx

namespace ReadStored

variable {s t : State} {a : Addr7} {n : Byte} {got : List Byte}

/-- ENG_READ and the acknowledge of its address begin the reception, with STOP requested at once for one byte (R83, R86). -/
theorem execAll_engRead (hs : s.engState = .idle) (hp : s.seqPhase = .ready) (hh : s.held = [])
    (hstop : s.pStopPending = false) (h0 : n ≠ 0) {is : List Instr} :
    ∃ t, execAll (.engRead a n :: .evTxe :: is) s = execAll is t ∧ ReadStored s a n [] t := by
  obtain ⟨t, ht, harm⟩ := engReadArmsTheEngine a n s hs hp hh hstop h0
  unfold armsRead at harm
  obtain ⟨-, hone, hmore⟩ := txeEndsTheAddressPhase t (by rw [harm])
  subst harm
  rw [execAll_cons ht]
  by_cases h1 : n = 1
  · obtain ⟨o, ho, htxe⟩ := hone rfl h1
    subst h1
    refine ⟨_, execAll_cons htxe, ?_, rfl, rfl, rfl, rfl, rfl, rfl, rfl, nofun, rfl, rfl, ho rfl⟩
    simp
  · obtain ⟨o, ho, htxe⟩ := hmore rfl h1
    have h1' : ¬ 0 + 1 = n.toNat := fun h => toNat_ne_one h1 h.symm
    refine ⟨_, execAll_cons htxe, ?_, rfl, rfl, (if_neg h1').symm, rfl, rfl, rfl, rfl, nofun, rfl, ?_, ho rfl⟩
    · simp [h1']
    · exact hstop.trans (decide_eq_false h1').symm

/-- A stored byte stands behind those received before. -/
theorem get_append {buf : Memory} {b : Byte} (h : ReadStored s a n got t)
    (hbuf : ∀ j, buf.get j = if j = t.engIdx.toNat then some b else t.engBuf.get j) :
    ∀ j < (got ++ [b]).length, buf.get j = (got ++ [b])[j]? := by
  intro j hj
  rw [hbuf, h.engIdx]
  by_cases hlast : j = got.length
  · simp [hlast]
  · have hlt : j < got.length := by simp at hj; omega
    rw [if_neg hlast, h.engBuf j hlt, List.getElem?_append_left hlt]

theorem engIdx_lt (h : ReadStored s a n got t) (hn : got.length < n.toNat) : t.engIdx.toNat < 255 := by
  have := n.isLt
  rw [h.engIdx]
  omega

/-- A byte that is not the last is stored, and STOP requested if one more is to come (R90, R98). -/
theorem exec_evRxf (h : ReadStored s a n got t) (hn : got.length + 1 < n.toNat) (b : Byte) :
    ∃ u, exec (.evRxf b) t = .next u ∧ ReadStored s a n (got ++ [b]) u := by
  have hs : t.engState = .xfer := by rw [h.engState, if_neg hn.ne]
  have hstop : t.pStopPending = false := by rw [h.pStopPending, decide_eq_false hn.ne]
  obtain ⟨hstore, -⟩ := rxfStoresTheByte t b h.engDir
  obtain ⟨buf, o, hbuf, ho, hexec⟩ := hstore hs (h.engIdx_lt (by omega))
  have ho : o = .rx := by rw [ho h.pOwe, hstop]; rfl
  have hlen : (got ++ [b]).length = got.length + 1 := List.length_append
  have hidx : (t.engIdx + 1).toNat = (got ++ [b]).length := by
    rw [toNat_succ_of_lt (y := n) (by rw [h.engIdx]; omega), h.engIdx, hlen]
  have hrem := h.engRem
  have hpred := toNat_pred_of_pos (x := t.engRem) (by omega)
  have hrem' : (t.engRem - 1).toNat + (got ++ [b]).length = n.toNat := by omega
  by_cases h1 : t.engRem - 1 = 1
  · have hlast : (got ++ [b]).length + 1 = n.toNat := by
      rw [← hrem', h1, Nat.add_comm]
      rfl
    refine ⟨_, hexec.trans (congrArg Host.Outcome.next (if_pos h1)), ?_, h.returns, h.seqPhase, (if_pos hlast).symm,
      h.engDir, h.engLen, hidx, hrem', h.get_append hbuf, h.engErr, (decide_eq_true hlast).symm, ho⟩
    rw [h.trace, if_neg hn.ne, if_pos hlast]
    simp
  · have hmore : ¬ (got ++ [b]).length + 1 = n.toNat := by
      have := toNat_ne_one h1
      omega
    refine ⟨_, hexec.trans (congrArg Host.Outcome.next (if_neg h1)), ?_, h.returns, h.seqPhase,
      hs.trans (if_neg hmore).symm, h.engDir, h.engLen, hidx, hrem', h.get_append hbuf, h.engErr,
      hstop.trans (decide_eq_false hmore).symm, ho⟩
    rw [h.trace, if_neg hn.ne, if_neg hmore]
    simp

theorem execAll_evRxf (h : ReadStored s a n got t) {more : List Byte} (hn : got.length + more.length < n.toNat) :
    ∃ u, execAll (more.map .evRxf) t = .next u ∧ ReadStored s a n (got ++ more) u := by
  induction more generalizing got t with
  | nil => exact ⟨t, rfl, by rwa [List.append_nil]⟩
  | cons b more ih =>
    rw [List.length_cons] at hn
    obtain ⟨u, hu, hstored⟩ := h.exec_evRxf (by omega) b
    obtain ⟨v, hv, hall⟩ := ih hstored (by rw [List.length_append, List.length_singleton]; omega)
    exact ⟨v, (execAll_cons hu).trans hv, by rwa [List.append_assoc] at hall⟩

/-- The last byte finishes the read, and no more are owed (R91, R98). -/
theorem exec_evRxf_last (h : ReadStored s a n got t) (hn : got.length + 1 = n.toNat) (b : Byte) :
    ∃ u, exec (.evRxf b) t = .next u ∧ u.trace = t.trace ++ [.evRxf b] ∧ u.engState = .idle ∧ u.engRem = 0 ∧
      u.pStopPending = true ∧ u.pOwe = .none ∧ u.engDone = true ∧ engResult u = .ok (.okRead (got ++ [b])) ∧
      u.seqPhase = .callWait ∧ u.returns = s.returns := by
  have hs : t.engState = .compl := by rw [h.engState, if_pos hn]
  have hstop : t.pStopPending = true := by rw [h.pStopPending, decide_eq_true hn]
  have hlen : (got ++ [b]).length = t.engLen.toNat := by rw [h.engLen, ← hn, List.length_append, List.length_singleton]
  obtain ⟨buf, o, hbuf, ho, hexec⟩ := rxfFinishesTheRead t b hs h.engDir (h.engIdx_lt (by omega))
  exact ⟨_, hexec, rfl, rfl, rfl, hstop, (ho h.pOwe).trans (if_pos hstop), rfl,
    engResult_read h.engErr h.engDir hlen fun j hj => h.get_append hbuf j (hlen ▸ hj), h.seqPhase, h.returns⟩

end ReadStored

/-- Settles O25: all bytes but the last are stored, with STOP requested after them, and the last finishes the read. -/
theorem readTransactionSucceeds : Obligations.ReadTransactionSucceeds := by
  intro a n bytes s hs hp hh hstop h0 hn
  obtain ⟨init, b, rfl⟩ := (List.eq_nil_or_concat' bytes).resolve_left (List.ne_nil_of_length_pos h0)
  have hlen : init.length + 1 = n.toNat := by rw [hn, List.length_append, List.length_singleton]
  have hn0 : n ≠ 0 := by rintro rfl; simp at hlen
  obtain ⟨t, ht, harm⟩ := ReadStored.execAll_engRead (a := a) hs hp hh hstop hn0 (is := (init ++ [b]).map .evRxf)
  obtain ⟨u, hu, h⟩ := harm.execAll_evRxf (more := init) (by rw [List.length_nil]; omega)
  rw [List.nil_append] at h
  obtain ⟨v, hv, htrace, hidle, hrem, hpend, howe, hdone, hres, hphase, hreturns⟩ := h.exec_evRxf_last hlen b
  obtain ⟨w, hw, hret, hready⟩ := seqStep_callWait hphase hdone hres
  refine ⟨v, w, ?_, ?_, hidle, hrem, hpend, howe, hw, hreturns ▸ hret, hready⟩
  · rw [ht, List.map_append, execAll_append hu]
    exact execAll_cons hv
  · rw [htrace, h.trace, if_pos hlen]
    simp

end Sys2Proof.Machine
end

section
/-! PROOFS: the FrameCodec (41_frame_codec.md). The laws come from what a whole frame decodes to and from the parts of an accepted
frame; the operations of the interface hand back what the codec answers. -/
namespace Sys2Proof

/-! ### CODEC_ENCODE and CODEC_DECODE (R104, R105) -/

theorem codecEncode_of_le {maxFrame : Nat} {payload : List Byte} (h : payload.length + 3 ≤ maxFrame) (op : OpType)
    (seq corr : Byte) :
    codecEncode maxFrame op seq corr payload = some (headerByte op payload.length :: seq :: corr :: payload) :=
  if_neg (Nat.not_lt.mpr h)

theorem codecEncode_of_lt {maxFrame : Nat} {payload : List Byte} (h : maxFrame < payload.length + 3) (op : OpType)
    (seq corr : Byte) : codecEncode maxFrame op seq corr payload = none :=
  if_pos h

/-- Fewer bytes than a header are Truncated (R105). -/
theorem codecDecode_of_length_lt {b : List Byte} (h : b.length < 3) : codecDecode b = none := by
  match b, h with
  | [], _ | [_], _ | [_, _], _ => rfl

/-- CODEC_DECODE accepts what has a header whose length field names at least the header and at most the bytes there (R105). -/
theorem codecDecode_isSome_iff {b : List Byte} :
    (codecDecode b).isSome = true ↔
      3 ≤ b.length ∧ ∃ b0, b.head? = some b0 ∧ 3 ≤ lengthField b0 ∧ lengthField b0 ≤ b.length := by
  rw [Option.isSome_iff_exists]
  constructor
  · rintro ⟨f, hf⟩
    obtain ⟨b0, seq, corr, rest, rfl, hmin, hmax, -⟩ := codecDecode_eq_some.1 hf
    exact ⟨Nat.le_add_left 3 rest.length, b0, rfl, hmin, hmax⟩
  · rintro ⟨hlen, b0, hhead, hmin, hmax⟩
    match b, hlen, hhead, hmax with
    | _ :: seq :: corr :: rest, _, rfl, hmax =>
      exact ⟨_, codecDecode_eq_some.2 ⟨b0, seq, corr, rest, rfl, hmin, hmax, rfl⟩⟩

/-! ### The round trips (R106) -/

/-- A frame that is encoded decodes to its fields, for a length its field of five bits holds (R59, R106). -/
theorem codecDecode_codecEncode {maxFrame : Nat} {payload : List Byte} (hmax : maxFrame ≤ 31)
    (h : payload.length + 3 ≤ maxFrame) (op : OpType) (seq corr : Byte) :
    ∃ bytes, codecEncode maxFrame op seq corr payload = some bytes ∧
      codecDecode bytes = some { opType := op, seq := seq, corr := corr, payload := payload } :=
  ⟨_, codecEncode_of_le h op seq corr, codecDecode_whole op seq corr (by omega)⟩

/-- A frame that is decoded encodes to its own first `L` bytes (R72, R106). -/
theorem codecEncode_codecDecode {b : List Byte} {f : Frame} (h : codecDecode b = some f) :
    codecEncode 31 f.opType f.seq f.corr f.payload = some (frameBytes b) := by
  obtain ⟨-, hlen, hbytes⟩ := codecDecode_header h
  rw [codecEncode_of_le (by omega), hbytes]
  rfl

/-- Settles O3: both round trips, the bound 31 on a frame's length, and `codecDecode_isSome_iff`. -/
theorem codecLaws : Obligations.CodecLaws := by
  refine ⟨?roundTrip, ?again, fun _ _ => codecEncode_codecDecode, fun _ => codecDecode_isSome_iff⟩
  case roundTrip =>
    intro maxFrame op seq corr payload hmax h
    exact codecDecode_codecEncode hmax h op seq corr
  case again =>
    refine fun op seq corr payload => ⟨fun h => ?_, fun h => codecEncode_of_lt (by omega) op seq corr⟩
    obtain ⟨bytes, henc, hdec⟩ := codecDecode_codecEncode le_rfl (Nat.add_le_add_right h 3) op seq corr
    exact ⟨bytes, _, henc, hdec, henc⟩

end Sys2Proof

namespace Sys2Proof.Machine

/-! ### The operations of the interface (R103) -/

section
variable {op : OpType} {seq corr : Byte} {payload bytes : List Byte} {f : Frame} {s : State}

theorem exec_codecEncode_some (h : codecEncode s.params.maxFrame op seq corr payload = some bytes) :
    exec (.codecEncode op seq corr payload) s = .next (s.giveBack (.encoded bytes)) := by
  simp only [exec, execCodecEncode, h]

theorem exec_codecEncode_none (h : codecEncode s.params.maxFrame op seq corr payload = none) :
    exec (.codecEncode op seq corr payload) s = .next (s.giveBack (.encodeOverflow payload.length)) := by
  simp only [exec, execCodecEncode, h]

theorem exec_codecDecode_some (h : codecDecode bytes = some f) :
    exec (.codecDecode bytes) s = .next (s.giveBack (.decoded f)) := by
  simp only [exec, execCodecDecode, h]

theorem exec_codecDecode_none (h : codecDecode bytes = none) :
    exec (.codecDecode bytes) s = .next (s.giveBack .truncated) := by
  simp only [exec, execCodecDecode, h]

end

/-- Settles O5: each operation hands back what the codec answers, and the cases are those of R104 and R105. -/
theorem codecHandsBackItsValue : Obligations.CodecHandsBackItsValue := by
  refine ⟨?encode, fun b s h => exec_codecDecode_none (codecDecode_of_length_lt h), ?decode⟩
  case encode =>
    intro op seq corr payload s
    by_cases h : payload.length + 3 > s.params.maxFrame
    · rw [if_pos h]
      exact exec_codecEncode_none (codecEncode_of_lt h op seq corr)
    · rw [if_neg h]
      exact exec_codecEncode_some (codecEncode_of_le (Nat.not_lt.mp h) op seq corr)
  case decode =>
    intro b0 seq corr rest s
    rw [← lengthField_eq, ← opTypeField_eq]
    by_cases hmin : lengthField b0 < 3
    · rw [if_pos hmin]
      exact exec_codecDecode_none (if_pos hmin)
    · rw [if_neg hmin]
      by_cases hmax : lengthField b0 > rest.length + 3
      · rw [if_pos hmax]
        exact exec_codecDecode_none ((if_neg hmin).trans (if_pos hmax))
      · rw [if_neg hmax]
        exact exec_codecDecode_some ((if_neg hmin).trans (if_neg hmax))

end Sys2Proof.Machine
end

section
/-! PROOFS: the dispatcher (42_dispatcher.md). In READY with nothing kept, an operation of SEQ commits what its meaning answers; a
command that calls the engine goes the way `engCall` goes, and every answer is one DISP_SEND, which does what R117 says. -/
namespace Sys2Proof.Machine

/-! ### An operation that SEQ is free to start -/

/-- A SEQ operation that meets no fault is done when SEQ is free. -/
theorem whenReady_ok {i : Instr} {act : State → Except Fault State} {s t : State} (hp : s.seqPhase = .ready)
    (hh : s.held = []) (h : act s = .ok t) : whenReady i act s = .next t := by
  rw [whenReady_free hp hh, h, commit_ok]

/-- A frame command that meets no fault is done when SEQ is free. -/
theorem exec_toInstr_ok {c : FrameCmd} {s t : State} (hp : s.seqPhase = .ready) (hh : s.held = [])
    (h : runCommand c s = .ok t) : exec c.toInstr s = .next t :=
  (exec_toInstr c s).trans (whenReady_ok hp hh h)

/-- Settles O11: `runKept` runs the operation with none kept, and puts the later ones back. -/
theorem seqRunsTheFirstKeptOperation : Obligations.SeqRunsTheFirstKeptOperation := by
  intro s t i later rest hf hi hp hh ht
  rw [step_seqIsNext hf hi, seqStep_kept (s := { s with inputs := rest }) hp hh]
  exact runKept_next (s := { s with inputs := rest }) ht

/-! ### Frames dropped silently (R110, R111) -/

/-- Settles O26: the three rows run `dropMalformed`. -/
theorem malformedFramesAreDropped : Obligations.MalformedFramesAreDropped := by
  intro seq corr a s hp hh
  exact ⟨exec_toInstr_ok (c := .i2cEmpty seq corr) hp hh rfl, exec_toInstr_ok (c := .gpioEmpty seq corr) hp hh rfl,
    exec_toInstr_ok (c := .i2cReadShort seq corr a) hp hh rfl⟩

/-- Settles O27: the six rows run `dropReserved`. -/
theorem reservedOpTypesAreDropped : Obligations.ReservedOpTypesAreDropped := by
  intro seq corr p s hp hh
  refine (List.forall_mem_map (f := FrameCmd.toInstr) (l := [.rsvdOp2 seq corr p, .rsvdOp3 seq corr p,
    .rsvdOp4 seq corr p, .rsvdOp5 seq corr p, .rsvdOp6 seq corr p, .rsvdOp7 seq corr p])).2 fun c hc =>
      exec_toInstr_ok hp hh ?_
  simp only [List.mem_cons, List.not_mem_nil, or_false] at hc
  rcases hc with rfl | rfl | rfl | rfl | rfl | rfl <;> rfl

/-! ### I2C_WRITE (R112) -/

/-- The response to a write request, once its call has returned (R68, R112). -/
theorem finishWrite_eq_sends (r : CallResult) (s : State) :
    ∃ t, finishWrite r s = { t with seqPhase := .ready } ∧
      sends s 0 s.dispCtx.rseq (s.dispCtx.addr.setWidth 8 :: statusByte r.isErr 0 :: s.dispCtx.data) t :=
  ⟨_, rfl, dispSend_sends ..⟩

/-- A write without data returns at once, and is answered in the same step (R82, R112; log 20). -/
theorem startWrite_nil {q : Byte} {a : Addr7} {s : State} (h : s.engState = .idle) :
    startWrite q a [] s = .ok (finishWrite .okWrite
      { s with seqPhase := .wWait, dispCtx := { s.dispCtx with rseq := q, addr := a, data := [] } }) := by
  simp only [startWrite, engCall_write_empty (s := { s with seqPhase := .wWait, dispCtx := _ }) a h]

/-- Settles O28: the engine's part is `engCall_write_arms`. -/
theorem i2cWriteArmsTheEngine : Obligations.I2cWriteArmsTheEngine := by
  intro seq corr a data s hp hh hs hstop h0 hm
  obtain ⟨t, ht, harm⟩ := engCall_write_arms (p := .wWait) (a := a)
    (s := { s with seqPhase := .wWait, dispCtx := { s.dispCtx with rseq := seq, addr := a, data := data } }) hs h0 hm hstop
  exact ⟨t, whenReady_ok hp hh (startWrite_waiting ht), harm⟩

/-- Settles O29: the call returns `okWrite` at once, whose status is 0x00. -/
theorem zeroLengthWriteAnswersAtOnce : Obligations.ZeroLengthWriteAnswersAtOnce := by
  intro seq corr a s hp hh hs
  obtain ⟨t, ht, hsend⟩ := finishWrite_eq_sends .okWrite
    { s with seqPhase := .wWait, dispCtx := { s.dispCtx with rseq := seq, addr := a, data := [] } }
  exact ⟨t, whenReady_ok hp hh ((startWrite_nil hs).trans (congrArg Except.ok ht)), hsend⟩

/-- The result of a write tells whether `eng_err` recorded an error (R84). -/
theorem engResult_of_write {s : State} (hd : s.engDir = .w) :
    ∃ r, engResult s = .ok r ∧ (!r.isErr) = decide (s.engErr = .none) := by
  cases he : s.engErr with
  | none => exact ⟨.okWrite, engResult_write he hd, rfl⟩
  | noack => exact ⟨.err .noAck, engResult_err (by rw [he]; rfl), rfl⟩
  | timeout => exact ⟨.err .timeout, engResult_err (by rw [he]; rfl), rfl⟩

/-- With count 0 the status is the error bit alone (R67). -/
theorem statusByte_zero {b : Bool} {P : Prop} [Decidable P] (h : (!b) = decide P) :
    statusByte b 0 = if P then 0x00 else 0x40 := by
  cases b <;> simp_all [statusByte, statusErr]

/-- Settles O36: in W_WAIT the step is `finishWrite` of the result. -/
theorem writeRequestIsAnswered : Obligations.WriteRequestIsAnswered := by
  intro s rest hf hi hp hdone hd
  obtain ⟨r, hr, herr⟩ := engResult_of_write (s := { s with inputs := rest }) hd
  obtain ⟨t, ht, hsend⟩ := finishWrite_eq_sends r { s with inputs := rest }
  refine ⟨t, ?_, statusByte_zero herr ▸ hsend⟩
  rw [step_resumeSeq hf hi (by simp [hp]), resumeSeq_wWait (s := { s with inputs := rest }) hp hdone hr, ht]

/-! ### I2C_READ (R113) -/

/-- The state in which the read phase begins once the select write has returned `w` (R113). -/
def State.selectEnded (s : State) (w : CallResult) : State :=
  { s with seqPhase := .rdWait, dispCtx := { s.dispCtx with wok := !w.isErr } }

section
variable {s : State} (w : CallResult) (hs : s.engState = .idle)
include hs

/-- With no STOP pending the read phase arms the engine. -/
theorem finishSelect_arms (h0 : s.dispCtx.rlen ≠ 0) (hstop : s.pStopPending = false) :
    ∃ t, finishSelect w s = .ok t ∧
      armsRead (s.selectEnded w) s.dispCtx.addr (s.dispCtx.rlen.setWidth 8) t := by
  obtain ⟨t, ht, harm⟩ := engCall_read_arms (p := .rdWait) (a := s.dispCtx.addr) (s := s.selectEnded w) hs
    (setWidth_rlen_ne_zero h0) hstop
  exact ⟨t, finishSelect_waiting ht, harm⟩

/-- While a STOP is pending the read is kept in STOP_HOLD (R81). -/
theorem finishSelect_gate (h0 : s.dispCtx.rlen ≠ 0) (hstop : s.pStopPending = true) :
    finishSelect w s = .ok { s.selectEnded w with
      seqPhase := .stopHold
      dispCtx := { (s.selectEnded w).dispCtx with
        pending := .read s.dispCtx.addr (s.dispCtx.rlen.setWidth 8), resume := .rdWait } } :=
  finishSelect_waiting (engCall_read_gate (s := s.selectEnded w) hs (setWidth_rlen_ne_zero h0) hstop)

/-- With a read length of 0 the read returns at once: the answer has count 0, no bytes read, and the error bit of the select
write (R67, R68, R83). -/
theorem finishSelect_rlen_zero (h0 : s.dispCtx.rlen = 0) :
    ∃ t, finishSelect w s = .ok { t with seqPhase := .ready } ∧
      sends (s.selectEnded w) 0 s.dispCtx.rseq
        ((s.dispCtx.addr.setWidth 8 ||| 0x80) :: statusByte w.isErr 0 :: s.dispCtx.sel) t := by
  have hcall := engCall_read_zero (p := .rdWait) (s := s.selectEnded w) s.dispCtx.addr (s.dispCtx.rlen.setWidth 8) hs
    (by rw [h0]; rfl)
  have hfin : finishSelect w s = .ok (finishRead (.okRead []) (s.selectEnded w)) := by
    unfold State.selectEnded at hcall ⊢
    simp only [finishSelect, hcall]
  have hresp : readResponse s.dispCtx.addr (statusByte (!(!w.isErr) || false) s.dispCtx.rlen) s.dispCtx.sel [] =
      (s.dispCtx.addr.setWidth 8 ||| 0x80) :: statusByte w.isErr 0 :: s.dispCtx.sel := by
    simp [readResponse, h0]
  exact ⟨_, hfin, hresp ▸ dispSend_sends ..⟩

end

/-- Settles O30: the engine's part is `engCall_write_arms`. -/
theorem i2cReadArmsTheSelectWrite : Obligations.I2cReadArmsTheSelectWrite := by
  intro seq corr a unused rlen sel s hp hh hs hstop h0 hm
  obtain ⟨t, ht, harm⟩ := engCall_write_arms (p := .selWait) (a := a)
    (s := { s with seqPhase := .selWait, dispCtx := { s.dispCtx with rseq := seq, addr := a, sel := sel, rlen := rlen } })
    hs h0 hm hstop
  exact ⟨t, whenReady_ok hp hh (startRead_waiting ht), harm⟩

/-- Settles O31: an empty select write succeeds at once, so the command is the read phase after a good select write. -/
theorem i2cReadWithoutSelect : Obligations.I2cReadWithoutSelect := by
  intro seq corr a unused rlen s hp hh hs
  refine ⟨fun h0 hstop => ?_, fun h0 => ?_⟩
  · obtain ⟨t, ht, harm⟩ := finishSelect_arms .okWrite
      (s := { s with seqPhase := .selWait, dispCtx := { s.dispCtx with rseq := seq, addr := a, sel := [], rlen := rlen } })
      hs h0 hstop
    exact ⟨t, whenReady_ok hp hh ((startRead_nil hs).trans ht), harm⟩
  · obtain ⟨t, ht, hsend⟩ := finishSelect_rlen_zero .okWrite
      (s := { s with seqPhase := .selWait, dispCtx := { s.dispCtx with rseq := seq, addr := a, sel := [], rlen := rlen } })
      hs h0
    exact ⟨t, whenReady_ok hp hh ((startRead_nil hs).trans ht), hsend⟩

/-- Settles O37: in SEL_WAIT the step is the read phase, behind the STOP gate. -/
theorem readPhaseFollowsTheSelect : Obligations.ReadPhaseFollowsTheSelect := by
  intro s rest hf hi hp hdone hs hd
  obtain ⟨w, hw, herr⟩ := engResult_of_write (s := { s with inputs := rest }) hd
  have hstep : step s = .next (commit { s with inputs := rest } (finishSelect w { s with inputs := rest })) := by
    rw [step_resumeSeq hf hi (by simp [hp]), resumeSeq_selWait (s := { s with inputs := rest }) hp hdone hw]
  rw [hstep, ← herr]
  refine ⟨fun h0 hstop => ?_, fun h0 hstop => ?_, fun h0 => ?_⟩
  · obtain ⟨t, ht, harm⟩ := finishSelect_arms w (s := { s with inputs := rest }) hs h0 hstop
    exact ⟨t, by rw [ht, commit_ok], harm⟩
  · rw [finishSelect_gate w (s := { s with inputs := rest }) hs h0 hstop]
    rfl
  · obtain ⟨t, ht, hsend⟩ := finishSelect_rlen_zero w (s := { s with inputs := rest }) hs h0
    exact ⟨t, by rw [ht, commit_ok], statusByte_zero herr ▸ hsend⟩

/-! ### Delivery (R109) -/

/-- An accepted frame runs as the command of its row. -/
theorem deliver_accepted {b : List Byte} {f : Frame} {c : FrameCmd} {s : State} (hf : codecDecode b = some f)
    (hc : decodeCommand s.params.supportedGroups f = .ok c) : deliver b s = runCommand c s := by
  simp only [deliver, decodeFrame_some hf, hc]

/-- Settles O56: an accepted frame has a row (O2), and both ways run its command. -/
theorem deliveryDropsOrRunsTheCommand : Obligations.DeliveryDropsOrRunsTheCommand := by
  intro ch b s hp hh
  refine ⟨exec_frameDeliver_truncated hp hh, fun f hf => ?_⟩
  obtain ⟨haccept, -⟩ := acceptedFrameIsACommand s.params b
  obtain ⟨c, hc, -⟩ := haccept f hf
  refine ⟨c, commit s (runCommand c s), hc, ?_, ?_⟩
  · exact (whenReady_free hp hh).trans (by rw [deliver_accepted hf hc])
  · exact (exec_toInstr c s).trans (whenReady_free hp hh)

/-! ### Operations that only send (R114 to R117) -/

/-- Settles O32: the pins are sampled by the command itself. -/
theorem gpioReadAnswersThePins : Obligations.GpioReadAnswersThePins := by
  intro seq corr isReq unused g rest s hp hh
  exact ⟨_, exec_toInstr_ok (c := .gpioRead seq corr isReq unused g rest) hp hh rfl, dispSend_sends ..⟩

/-- Settles O33: the answer does not read the pins. -/
theorem gpioBadgroupAnswersTheError : Obligations.GpioBadgroupAnswersTheError := by
  intro seq corr isReq unused g rest s hp hh
  exact ⟨_, exec_toInstr_ok (c := .gpioBadgroup seq corr isReq unused g rest) hp hh rfl, dispSend_sends ..⟩

/-- The payload of the unsolicited request (R70, R116). -/
theorem unsolicitedPayload_eq (p : Params) (pins : Byte) :
    unsolicitedPayload p pins = [if p.unsolSetReqBit then 0x82 else 0x02, pins] := by
  unfold unsolicitedPayload
  split <;> rfl

/-- The unsolicited request is one send with corr 0xFF (R116). -/
theorem gpioChange_sends (s : State) (v : Byte) :
    sends s 1 0xFF [if s.params.unsolSetReqBit then 0x82 else 0x02, ~~~ v &&& s.params.pinMask] (s.gpioChange v) :=
  unsolicitedPayload_eq s.params _ ▸ dispSend_sends ..

/-- Settles O59: by `gpioChange_sends`. -/
theorem gpioChangeSendsTheRequest : Obligations.GpioChangeSendsTheRequest := by
  intro v s hp hh
  exact ⟨_, whenReady_ok (act := fun u => .ok (u.gpioChange v)) hp hh rfl, gpioChange_sends s v⟩

/-- Settles O60: by `dispSend_sends`. -/
theorem dispSendSendsOrDrops : Obligations.DispSendSendsOrDrops := by
  intro op corr payload s hp hh
  exact ⟨_, whenReady_ok (act := fun u => .ok (u.dispSend op corr payload)) hp hh rfl, dispSend_sends ..⟩

/-! ### The link (R107, R108) -/

/-- Settles O54: LINK_OPEN is this update. -/
theorem linkOpenConnects : Obligations.LinkOpenConnects := fun _ _ => rfl

/-- Settles O55: the free value drawn for the channel is taken within CHANNEL_ID. -/
theorem linkCloseDisconnects : Obligations.LinkCloseDisconnects := by
  intro s
  refine ⟨fun h => ⟨s.params.channel (Config.freeChannel s.freeCount), s.freeCount + 1, isChannel_channel _, ?_⟩,
    fun h => ?_⟩
  · exact if_pos h
  · exact if_neg (by simp [h])

end Sys2Proof.Machine
end

section
/-! PROOFS: the GpioSampler (43_gpio_sampler.md). A poll writes the snapshot, the trace and `ownseq` alone, and the snapshot it leaves is
the pins it sampled; so a poll after it finds no difference. -/
namespace Sys2Proof.Machine

/-! ### What a poll does (R121) -/

/-- SEQ polls at once when it is free. -/
theorem exec_gpioPoll_free {s : State} (hp : s.seqPhase = .ready) (hh : s.held = []) :
    exec .gpioPoll s = .next s.poll :=
  whenReady_ok (act := fun u => .ok u.poll) hp hh rfl

theorem poll_of_ne {s : State} (h : sampledPins s ≠ s.gpioLast) :
    s.poll = { s with gpioLast := sampledPins s }.gpioChange (sampledPins s) :=
  if_pos h

theorem poll_of_eq {s : State} (h : sampledPins s = s.gpioLast) : s.poll = s :=
  if_neg (not_not_intro h)

/-- On a difference the new snapshot stands when the unsolicited request is sent or dropped (R116, R121). -/
theorem poll_sends {s : State} (h : sampledPins s ≠ s.gpioLast) :
    sends { s with gpioLast := sampledPins s } 1 0xFF
      [if s.params.unsolSetReqBit then 0x82 else 0x02, ~~~ sampledPins s &&& s.params.pinMask] s.poll := by
  rw [poll_of_ne h]
  exact gpioChange_sends { s with gpioLast := sampledPins s } (sampledPins s)

/-! ### What a poll leaves unchanged -/

/-- A send writes the trace and `ownseq` alone (R117). -/
theorem dispSend_writes (s : State) (op : OpType) (corr : Byte) (payload : List Byte) :
    ∃ items q, s.dispSend op corr payload = { s with trace := items, ownseq := q } := by
  rcases dispSend_cases s op corr payload with ⟨d, h⟩ | ⟨-, rest, h⟩
  · exact ⟨_, s.ownseq, h⟩
  · exact ⟨_, _, h⟩

/-- With or without a difference the snapshot is then the sampled pins, and only the trace and `ownseq` change beside it. -/
theorem poll_writes (s : State) :
    ∃ items q, s.poll = { s with gpioLast := sampledPins s, trace := items, ownseq := q } := by
  by_cases h : sampledPins s = s.gpioLast
  · exact ⟨s.trace, s.ownseq, by rw [poll_of_eq h, h]⟩
  · rw [poll_of_ne h]
    exact dispSend_writes { s with gpioLast := sampledPins s } ..

@[simp] theorem poll_seqPhase (s : State) : s.poll.seqPhase = s.seqPhase := by
  obtain ⟨items, q, h⟩ := poll_writes s
  rw [h]

@[simp] theorem poll_held (s : State) : s.poll.held = s.held := by
  obtain ⟨items, q, h⟩ := poll_writes s
  rw [h]

/-- The snapshot a poll leaves is what the pins still read. -/
theorem poll_upToDate (s : State) : sampledPins s.poll = s.poll.gpioLast := by
  obtain ⟨items, q, h⟩ := poll_writes s
  rw [h]
  rfl

/-- A second poll finds no difference (R123). -/
@[simp] theorem poll_poll (s : State) : s.poll.poll = s.poll := poll_of_eq (poll_upToDate s)

/-! ### The statements -/

/-- Settles O57: the two cases of `State.poll`. -/
theorem pollReportsAChange : Obligations.PollReportsAChange := by
  intro s hp hh
  have hpoll := exec_gpioPoll_free hp hh
  refine ⟨fun hne => ⟨s.poll, hpoll, poll_sends hne⟩, fun heq => ?_⟩
  rw [hpoll, poll_of_eq heq]

/-- Settles O58: the first poll leaves SEQ free and the snapshot up to date, so the second is `poll_poll`. -/
theorem pollIsIdempotent : Obligations.PollIsIdempotent := by
  intro s t hp hh ht
  obtain rfl : s.poll = t := by
    rw [exec_gpioPoll_free hp hh] at ht
    exact Host.Outcome.next.inj ht
  refine ⟨?_, poll_sends, poll_of_eq⟩
  rw [exec_gpioPoll_free ((poll_seqPhase s).trans hp) ((poll_held s).trans hh), poll_poll]

end Sys2Proof.Machine
end

section
/-! PROOFS: reset, and what the agents may not do to each other (70_reset_and_hazards.md). The events write the engine and the
peripheral alone, and issue no START. SEQ issues one only by arming the engine, and it arms behind the STOP gate. -/
namespace Sys2Proof.Machine

/-! ### The START items of the trace -/

/-- What the trace holds at `t` beyond `s` issues no START. -/
def AddsNoStart (s t : State) : Prop := ∃ items, t.trace = s.trace ++ items ∧ ∀ a, TraceItem.start a ∉ items

namespace AddsNoStart

theorem of_trace_eq {s t : State} (h : t.trace = s.trace) : AddsNoStart s t := ⟨[], by rw [h, List.append_nil], nofun⟩

theorem refl (s : State) : AddsNoStart s s := .of_trace_eq rfl

theorem emit {s : State} {x : TraceItem} (hx : ∀ a, .start a ≠ x) : AddsNoStart s (s.emit x) :=
  ⟨[x], rfl, fun a ha => hx a (List.mem_singleton.1 ha)⟩

theorem trans {s t u : State} (h : AddsNoStart s t) (h' : AddsNoStart t u) : AddsNoStart s u := by
  obtain ⟨xs, ht, hxs⟩ := h
  obtain ⟨ys, hu, hys⟩ := h'
  exact ⟨xs ++ ys, by rw [hu, ht, List.append_assoc], fun a ha => (List.mem_append.1 ha).elim (hxs a) (hys a)⟩

theorem commit {s : State} {r : Except Fault State} (h : ∀ t, r = .ok t → AddsNoStart s t) :
    AddsNoStart s (commit s r) := by
  rcases commit_cases s r with ⟨t, ht, he⟩ | ⟨f, -, he⟩ <;> rw [he]
  · exact h t ht
  · exact .of_trace_eq rfl

theorem dispSend (s : State) (op : OpType) (corr : Byte) (payload : List Byte) :
    AddsNoStart s (s.dispSend op corr payload) := by
  rcases dispSend_cases s op corr payload with ⟨d, h⟩ | ⟨-, rest, h⟩ <;> rw [h] <;> exact AddsNoStart.emit nofun

end AddsNoStart

/-! ### What an event writes (R35, R129, R145) -/

/-- From `s` to `t` nothing changes of what SEQ, the links, the pins and the environment hold, nor the call the engine serves. -/
def KeepsSeq (s t : State) : Prop :=
  t.ownseq = s.ownseq ∧ t.linkConnected = s.linkConnected ∧ t.linkChannel = s.linkChannel ∧
    t.gpioLast = s.gpioLast ∧ t.seqPhase = s.seqPhase ∧ t.dispCtx = s.dispCtx ∧ t.held = s.held ∧
    t.inputs = s.inputs ∧ t.returns = s.returns ∧ t.pinReg = s.pinReg ∧ t.freeCount = s.freeCount ∧
    t.engDir = s.engDir ∧ t.engAddr = s.engAddr ∧ t.engLen = s.engLen

theorem KeepsSeq.refl (s : State) : KeepsSeq s s :=
  ⟨rfl, rfl, rfl, rfl, rfl, rfl, rfl, rfl, rfl, rfl, rfl, rfl, rfl, rfl⟩

/-- From `s` to `t` the engine goes on with its transaction, or ends it, and touches nothing else. -/
def EventOnly (s t : State) : Prop := KeepsSeq s t ∧ AddsNoStart s t

namespace EventOnly

theorem refl (s : State) : EventOnly s s := ⟨.refl s, .refl s⟩

theorem emit {s : State} {x : TraceItem} (hx : ∀ a, .start a ≠ x) : EventOnly s (s.emit x) := ⟨.refl s, .emit hx⟩

/-- What a handler makes of the peripheral's report, it makes of the state before the report (R95). -/
theorem of_reported {s t : State} {x : TraceItem} {o : Owe} (hx : ∀ a, .start a ≠ x)
    (h : EventOnly (s.reported x o) t) : EventOnly s t := by
  obtain ⟨hkeeps, hstart⟩ := h
  exact ⟨hkeeps, (AddsNoStart.emit hx).trans hstart⟩

theorem addsNoStart {s t : State} (h : EventOnly s t) : AddsNoStart s t := by
  obtain ⟨-, hstart⟩ := h
  exact hstart

theorem commit {s : State} {r : Except Fault State} (h : ∀ t, r = .ok t → EventOnly s t) : EventOnly s (commit s r) := by
  rcases commit_cases s r with ⟨t, ht, he⟩ | ⟨f, -, he⟩ <;> rw [he]
  · exact h t ht
  · exact EventOnly.refl s

theorem abort (s : State) (e : EngErr) : EventOnly s (s.abort e) := by
  rw [abort_eq]
  refine ⟨KeepsSeq.refl s, _, rfl, ?_⟩
  split <;> simp

end EventOnly

theorem txeAddr_eventOnly {s t : State} (h : txeAddr s = .ok t) : EventOnly s t := by
  unfold txeAddr at h
  split at h
  · split at h <;> cases h
    exact EventOnly.emit (s := s) (x := .tx _) nofun
  · split at h <;> cases h
    · exact EventOnly.emit (s := s) (x := .stopReq) nofun
    · exact EventOnly.refl s

theorem txeXfer_eventOnly {s t : State} (h : txeXfer s = .ok t) : EventOnly s t := by
  unfold txeXfer at h
  split at h <;> cases h
  exact EventOnly.emit (s := s) (x := .tx _) nofun

theorem handleTxe_eventOnly {s t : State} (h : handleTxe s = .ok t) : EventOnly s t := by
  unfold handleTxe at h
  split at h
  next => exact txeAddr_eventOnly h
  next => exact txeAddr_eventOnly h
  next => exact txeXfer_eventOnly h
  next => cases h; exact EventOnly.emit (s := s) (x := .stopReq) nofun
  all_goals cases h; exact EventOnly.refl s

theorem rxfXfer_eventOnly {b : Byte} {s t : State} (h : rxfXfer b s = .ok t) : EventOnly s t := by
  unfold rxfXfer at h
  split at h
  · injection h with h
    subst h
    split
    · exact EventOnly.emit (s := s) (x := .stopReq) nofun
    · exact EventOnly.refl s
  · cases h

theorem rxfCompl_eventOnly {b : Byte} {s t : State} (h : rxfCompl b s = .ok t) : EventOnly s t := by
  unfold rxfCompl at h
  split at h <;> cases h
  exact EventOnly.refl s

theorem handleRxf_eventOnly {b : Byte} {s t : State} (h : handleRxf b s = .ok t) : EventOnly s t := by
  unfold handleRxf at h
  split at h
  next => exact rxfXfer_eventOnly h
  next => exact rxfCompl_eventOnly h
  all_goals cases h; exact EventOnly.refl s

theorem handleNack_eventOnly (s : State) : EventOnly s (handleNack s) := by
  unfold handleNack
  split
  · exact EventOnly.refl s
  · exact .abort s _

theorem execEvTimeout_eventOnly {s t : State} (h : execEvTimeout s = .next t) : EventOnly s t := by
  unfold execEvTimeout at h
  split at h <;> cases h
  · exact .of_reported (x := .evTimeout) nofun (.abort _ _)
  · exact .refl s

theorem execPeStopdone_eventOnly {s t : State} (h : execPeStopdone s = .next t) : EventOnly s t := by
  unfold execPeStopdone at h
  split at h <;> cases h
  · exact EventOnly.emit (s := s) (x := .stopDone) nofun
  · exact .refl s

/-- An event of the interrupt context, or the completion of a STOP (R35, R99). -/
def isEvent (i : Instr) : Prop :=
  i = .evTxe ∨ (∃ b, i = .evRxf b) ∨ i = .evNack ∨ i = .evTimeout ∨ i = .peStopdone

theorem exec_event_eventOnly {i : Instr} {s t : State} (hi : isEvent i) (h : exec i s = .next t) : EventOnly s t := by
  obtain rfl | ⟨b, rfl⟩ | rfl | rfl | rfl := hi
  · cases h
    exact .commit fun u hu => .of_reported (x := .evTxe) nofun (handleTxe_eventOnly hu)
  · cases h
    exact .commit fun u hu => .of_reported (x := .evRxf b) nofun (handleRxf_eventOnly hu)
  · cases h
    exact .of_reported (x := .evNack) nofun (handleNack_eventOnly _)
  · exact execEvTimeout_eventOnly h
  · exact execPeStopdone_eventOnly h

/-- Settles O18: no handler writes beyond the engine, and a fault changes nothing but the fault set. -/
theorem interruptsTouchOnlyTheEngine : Obligations.InterruptsTouchOnlyTheEngine := by
  intro i s t hi h
  obtain ⟨hkeeps, -⟩ := exec_event_eventOnly hi h
  exact hkeeps

/-! ### SEQ behind the STOP gate (R81, R143) -/

/-- With a STOP pending a call stands at the gate, and the engine is not armed. -/
theorem engCall_waiting_noStart {p : SeqPhase} {c : Call} {s t : State} (h : engCall p c s = .ok (.waiting t))
    (hstop : s.pStopPending = true) : AddsNoStart s t := by
  obtain ⟨-, ⟨-, h⟩ | ⟨-, -, ⟨-, h⟩ | ⟨hfree, -⟩⟩⟩ := engCall_cases h
  · cases h
  · cases h
    exact .of_trace_eq rfl
  · exact nomatch hstop.symm.trans hfree

theorem directCall_noStart {s : State} (hstop : s.pStopPending = true) (i : Instr) (c : Call) :
    AddsNoStart s (directCall i c s) := by
  unfold directCall
  split
  · exact .of_trace_eq rfl
  · split
    · exact .of_trace_eq rfl
    · split
      next r u hu =>
        rw [engCall_returned_eq hu]
        exact .of_trace_eq rfl
      next hu => exact engCall_waiting_noStart hu hstop
      next => exact .of_trace_eq rfl

theorem finishWrite_noStart (r : CallResult) (s : State) : AddsNoStart s (finishWrite r s) :=
  (AddsNoStart.dispSend s 0 _ _ :)

theorem finishRead_noStart (r : CallResult) (s : State) : AddsNoStart s (finishRead r s) :=
  (AddsNoStart.dispSend s 0 _ _ :)

theorem startWrite_noStart {s t : State} {q : Byte} {a : Addr7} {data : List Byte} (h : startWrite q a data s = .ok t)
    (hstop : s.pStopPending = true) : AddsNoStart s t := by
  unfold startWrite at h
  split at h <;> cases h
  next r u hu =>
    rw [engCall_returned_eq hu]
    exact (finishWrite_noStart r { s with seqPhase := .wWait, dispCtx := _ } :)
  next hu => exact (engCall_waiting_noStart hu hstop :)

theorem finishSelect_noStart {s t : State} {w : CallResult} (h : finishSelect w s = .ok t)
    (hstop : s.pStopPending = true) : AddsNoStart s t := by
  unfold finishSelect at h
  split at h <;> cases h
  next r u hu =>
    rw [engCall_returned_eq hu]
    exact (finishRead_noStart r { s with seqPhase := .rdWait, dispCtx := _ } :)
  next hu => exact (engCall_waiting_noStart hu hstop :)

theorem startRead_noStart {s t : State} {q : Byte} {a : Addr7} {n : BitVec 5} {sel : List Byte}
    (h : startRead q a n sel s = .ok t) (hstop : s.pStopPending = true) : AddsNoStart s t := by
  unfold startRead at h
  split at h
  next w u hu =>
    rw [engCall_returned_eq hu] at h
    exact (finishSelect_noStart h hstop :)
  next hu =>
    cases h
    exact (engCall_waiting_noStart hu hstop :)
  next => cases h

theorem runCommand_noStart {c : FrameCmd} {s t : State} (h : runCommand c s = .ok t) (hstop : s.pStopPending = true) :
    AddsNoStart s t := by
  cases c with
  | i2cEmpty | gpioEmpty | i2cReadShort => cases h; exact .emit nofun
  | rsvdOp2 | rsvdOp3 | rsvdOp4 | rsvdOp5 | rsvdOp6 | rsvdOp7 => cases h; exact .emit nofun
  | i2cRead => exact startRead_noStart h hstop
  | i2cWrite => exact startWrite_noStart h hstop
  | gpioRead | gpioBadgroup => cases h; exact .dispSend ..

theorem deliver_noStart {b : List Byte} {s t : State} (h : deliver b s = .ok t) (hstop : s.pStopPending = true) :
    AddsNoStart s t := by
  unfold deliver at h
  split at h
  · exact runCommand_noStart h hstop
  · cases h
    exact .emit nofun

theorem poll_noStart (s : State) : AddsNoStart s s.poll := by
  unfold State.poll
  split
  · exact (AddsNoStart.dispSend { s with gpioLast := sampledPins s } .. :)
  · exact .refl s

theorem whenReady_noStart {i : Instr} {act : State → Except Fault State} {s t : State}
    (hact : ∀ u, act s = .ok u → AddsNoStart s u) (h : whenReady i act s = .next t) : AddsNoStart s t := by
  rcases whenReady_cases h with ⟨-, -, rfl⟩ | rfl
  · exact .commit hact
  · exact .of_trace_eq rfl

theorem leaveWait_noStart {k : CallResult → State → Except Fault State} {s : State}
    (hk : ∀ r t, k r s = .ok t → AddsNoStart s t) : AddsNoStart s (leaveWait k s) := by
  unfold leaveWait
  split
  · refine .commit fun t ht => ?_
    split at ht
    · exact hk _ t ht
    · cases ht
  · exact .refl s

/-- SEQ stays in STOP_HOLD, and the read phase of a command waits at the gate. -/
theorem resumeSeq_noStart {s : State} (hstop : s.pStopPending = true) : AddsNoStart s (resumeSeq s) := by
  unfold resumeSeq
  split
  next => exact .refl s
  next =>
    rw [if_pos hstop]
    exact .refl s
  next => exact leaveWait_noStart fun r t ht => by cases ht; exact finishWrite_noStart r s
  next => exact leaveWait_noStart fun r t ht => finishSelect_noStart ht hstop
  next => exact leaveWait_noStart fun r t ht => by cases ht; exact finishRead_noStart r s
  next => exact leaveWait_noStart fun r t ht => by cases ht; exact .of_trace_eq rfl

theorem exec_noStart {i : Instr} {s t : State} (h : exec i s = .next t) (hstop : s.pStopPending = true) :
    AddsNoStart s t := by
  cases i using Instr.command_cases with
  | command c =>
    rw [exec_toInstr] at h
    exact whenReady_noStart (fun u hu => runCommand_noStart hu hstop) h
  | engWrite a data => cases h; exact directCall_noStart hstop ..
  | engRead a n => cases h; exact directCall_noStart hstop ..
  | evTxe => exact (exec_event_eventOnly (.inl rfl) h).addsNoStart
  | evRxf b => exact (exec_event_eventOnly (.inr (.inl ⟨b, rfl⟩)) h).addsNoStart
  | evNack => exact (exec_event_eventOnly (.inr (.inr (.inl rfl))) h).addsNoStart
  | evTimeout => exact (execEvTimeout_eventOnly h).addsNoStart
  | peStopdone => exact (execPeStopdone_eventOnly h).addsNoStart
  | linkOpen ch => cases h; exact .of_trace_eq rfl
  | linkClose =>
    simp only [exec, execLinkClose] at h
    split at h <;> cases h <;> exact .of_trace_eq rfl
  | frameDeliver ch b => exact whenReady_noStart (fun u hu => deliver_noStart hu hstop) h
  | gpioPoll =>
    exact whenReady_noStart (act := fun u => .ok u.poll) (fun u hu => by cases hu; exact poll_noStart s) h
  | codecEncode op q c p =>
    obtain ⟨r, rfl⟩ := exec_codecEncode_giveBack h
    exact .of_trace_eq rfl
  | codecDecode b =>
    obtain ⟨r, rfl⟩ := exec_codecDecode_giveBack h
    exact .of_trace_eq rfl
  | gpioChange v =>
    exact whenReady_noStart (act := fun u => .ok (u.gpioChange v)) (fun u hu => by cases hu; exact .dispSend ..) h
  | dispSend op c p =>
    exact whenReady_noStart (act := fun u => .ok (u.dispSend op c p)) (fun u hu => by cases hu; exact .dispSend ..) h

/-- Settles O20: an event issues no START, and SEQ's calls wait at the gate. -/
theorem noStartWhileStopPending : Obligations.NoStartWhileStopPending := by
  intro s t h hstop
  obtain ⟨-, ⟨i, -, hexec⟩ | ⟨i, rest, -, -, -, hkept⟩ | ⟨-, rfl | ⟨v, rfl⟩ | rfl⟩⟩ := step_cases h
  · exact (exec_noStart hexec hstop :)
  · obtain ⟨u, hu, rfl⟩ := runKept_eq_next hkept
    exact (exec_noStart hu hstop :)
  · exact (resumeSeq_noStart (s := s.advance) hstop :)
  · exact AddsNoStart.of_trace_eq rfl
  · exact AddsNoStart.of_trace_eq rfl

/-! ### Reset (R13, R140) -/

/-- Settles O13: each element stands in `State.resetWith` at its value, and the empty buffer has no byte written. -/
theorem resetValues : Obligations.ResetValues := by
  intro p
  have hbuf : ∀ i < 255, memRead (State.resetWith p).engBuf i = .error .unwrittenBuf :=
    fun i hi => memRead_unwritten hi (Memory.get_nil i)
  exact ⟨rfl, rfl, rfl, rfl, rfl, rfl, rfl, rfl, rfl, rfl, rfl, hbuf, rfl, rfl, rfl, rfl, rfl, rfl, rfl, rfl, rfl⟩

end Sys2Proof.Machine
end
